-- ==== Sys2Proof/Word.lean ====
section
/-! DEFINITION. The two widths the spec computes with: `u8` and `u16` of 00_scope.md section 6. -/

namespace Sys2Proof

/-- `u8`: one unsigned byte (00_scope.md section 6). -/
abbrev Byte := BitVec 8

/-- `u16`: an unsigned 16-bit value; the length field and the resolved length (R13, R62). -/
abbrev Half := BitVec 16

end Sys2Proof
end

