-- ==== Sys2Proof/Config.lean ====
section
/-! DEFINITION. The parameters a model takes as arguments (00_scope.md R6) and the registry's entry (41_registry.md R62).
The default values and the functions of a configuration are in Machine/Defaults.lean. -/

namespace Sys2Proof

/-- A registry entry `(name, class, id, declLen)`; `declLen = 0` is the variable-length sentinel (R62). -/
structure Entry where
  name    : String
  cls     : Byte
  id      : Byte
  declLen : Half
  deriving DecidableEq, Repr

/-- The configuration of one instance, fixed for its life (R6, R20, R105). A capacity below 4 and a zero-width
counter are not valid arguments (R6, 93_implementation_defined.md item 10), so the type cannot hold them. A capacity of
at least 4 that some fixed entry does not fit is valid: that entry's frames always overflow (R105, item 10). -/
structure Config where
  bufCap     : Nat
  errW       : Nat
  registry   : List Entry
  bufCap_min : 4 ≤ bufCap
  errW_min   : 1 ≤ errW
  deriving DecidableEq, Repr

end Sys2Proof
end

