-- ==== Sys2Proof/Machine/Defaults.lean ====
section
/-! DEFINITION. Default parameter values and derived widths (00_scope.md R6), the fixed values (R7), and the default
registry (41_registry.md R63). -/

namespace Sys2Proof

/-- First sync byte (R7). -/
def sync1 : Byte := 0xB5

/-- Second sync byte (R7). -/
def sync2 : Byte := 0x62

/-- The default `REGISTRY`, in the order R63 lists it. -/
def defaultRegistry : List Entry :=
  [ { name := "fix-v7",          cls := 0x01, id := 0x07, declLen := 84 },
    { name := "fix-v8",          cls := 0x01, id := 0x07, declLen := 92 },
    { name := "time-pulse-cfg",  cls := 0x06, id := 0x31, declLen := 32 },
    { name := "ack",             cls := 0x05, id := 0x01, declLen := 2 },
    { name := "nak",             cls := 0x05, id := 0x00, declLen := 2 },
    { name := "satellite-info",  cls := 0x01, id := 0x35, declLen := 0 },
    { name := "gnss-enable-cfg", cls := 0x06, id := 0x3E, declLen := 0 } ]

/-- The default configuration: `BUF_CAP = 1024`, `ERR_W = 32`, the seven entries of R63 (R6). -/
def defaultConfig : Config :=
  { bufCap := 1024, errW := 32, registry := defaultRegistry, bufCap_min := by decide, errW_min := by decide }

/-- `ceil(log2 n)` for `n ≥ 1`; 0 for `n = 0` (used only under a `max 1`). -/
def ceilLog2 (n : Nat) : Nat := if n ≤ 1 then 0 else (n - 1).log2 + 1

/-- `N`, the number of registry entries (R6). -/
def Config.entries (cfg : Config) : Nat := cfg.registry.length

/-- `NAME_W = max(1, ceil(log2 N))` (R6). -/
def Config.nameW (cfg : Config) : Nat := max 1 (ceilLog2 cfg.entries)

/-- `IDX_W = ceil(log2(BUF_CAP + 1))` (R6). -/
def Config.idxW (cfg : Config) : Nat := ceilLog2 (cfg.bufCap + 1)

/-- The recommended constraint `BUF_CAP ≥ 4 + L` for every fixed declared length `L` (R6, R105). -/
def Config.fitsFixedEntries (cfg : Config) : Bool :=
  cfg.registry.all fun e => e.declLen.toNat + 4 ≤ cfg.bufCap

end Sys2Proof
end

