-- ==== Sys2Proof/Syntax.lean ====
section
/-! DEFINITION. The operations of the block: one constructor per row of spec/opcode_table.json (R2, R49, R50, R63), and
the words the environment presents on the block's ports (R49). -/

namespace Sys2Proof

/-- One constructor per row of the opcode table.

The first eleven are the interface operations of R49. The next twelve are the cases of FEED (R50): a row's word is a
FEED's word, and `Machine.feedRow` gives the one row a byte falls under in a state. The last seven are the signature rows of
R63: a row's word is the 32-bit header word of R47, matched by the registry matcher. -/
inductive Instr where
  -- interface operations (R49)
  | reset
  | feed (b : Byte)
  | idle
  | ckClear
  | ckAccum (b : Byte)
  | ckIdle
  | readResult
  | readErr
  | readBuf (a : Nat)
  | readCk
  | lookup (c i : Byte) (w : Half)
  -- the cases of FEED (R50)
  | feedWaitSync1Sync1
  | feedWaitSync1Noise (b : Byte)
  | feedWaitSync2Sync2
  | feedWaitSync2SyncLoss (b : Byte)
  | feedHeaderByte (b : Byte)
  | feedHeaderLast (b : Byte)
  | feedPayloadByte (b : Byte)
  | feedPayloadLast (b : Byte)
  | feedChecksumAGood (b : Byte)
  | feedChecksumABad (b : Byte)
  | feedChecksumBGood (b : Byte)
  | feedChecksumBBad (b : Byte)
  -- the registry's signatures (R63)
  | sigFixV7
  | sigFixV8
  | sigTimePulseCfg
  | sigAck
  | sigNak
  | sigSatelliteInfo (w : Half)
  | sigGnssEnableCfg (w : Half)
  deriving DecidableEq, Repr

/-- What the environment presents in one transaction: a word on the framer input or on the checksum engine input, or a
read on one of the combinational ports (R49). -/
inductive PortWord where
  | framer (w : BitVec 10)
  | checksum (w : BitVec 10)
  | readResult
  | readErr
  | readBuf (a : Nat)
  | readCk
  | lookup (c i : Byte) (w : Half)
  deriving DecidableEq, Repr

/-- Why bits are not a table word. -/
inductive DecodeError where
  /-- The number does not fit a 10-bit word or a 32-bit header word. -/
  | wordTooWide
  /-- A header word that no signature row matches: the unassigned space of R51. -/
  | unknownSignature
  deriving DecidableEq, Repr

/-- The match and mask columns of an opcode-table row. A 10-bit row stands in the low bits. -/
structure TableRow where
  mask  : BitVec 32
  value : BitVec 32
  deriving DecidableEq, Repr

end Sys2Proof
end

