-- ==== Sys2Proof/Machine/State.lean ====
section
/-! DEFINITION. The state of the block (10_state.md R10 to R19), its reset values (R27), the model's event history
(60_exceptions.md R85) and the reasons a step can stop. -/

namespace Sys2Proof.Machine

/-- The six legal values of `st` and no others (R10, R11). -/
inductive FramerState where
  | waitSync1 | waitSync2 | header | payload | checksumA | checksumB
  deriving DecidableEq, Repr

/-- Which checksum byte a mismatch was found at (R85). -/
inductive CkByte where
  | a | b
  deriving DecidableEq, Repr

/-- The four drop causes with the info a drop event records (R85). -/
inductive Drop where
  | syncLoss (b : Byte)
  | unknownSignature (c i : Byte) (wlen : Half)
  | checksumMismatch (which : CkByte) (expected got : Byte)
  | overflow (n : Nat) (rlen : Half)
  deriving DecidableEq, Repr

/-- A label of the model's event history (R85, 00_scope.md section 6 `emit` and `drop`); the hardware outputs none. -/
inductive Event where
  | emit (n : Nat)
  | drop (d : Drop)
  deriving DecidableEq, Repr

/-- What a read operation delivers to the consumer: the outputs of R24 and of the lookup port (R69). -/
inductive Reading where
  | result (pktValid : Bool) (pktName : Nat)
  | errCount (n : Nat)
  | rdData (b : Byte)
  | ckOut (a b : Byte)
  | lookup (hit : Bool) (name : Nat) (rlen : Half)
  deriving DecidableEq, Repr

/-- The receive buffer: the written bytes by offset, offsets rising. An unlisted offset is unwritten and has no value
(R18, R32). -/
abbrev Memory := List Host.Cell

/-- Why a step faults. -/
inductive Fault where
  /-- `BufRead` of an offset below BUF_CAP that no FEED has stored since RESET (R32, R83, D13). Raised by READ_BUF; by FEED
  only in states no run reaches (log entry 9). Safe: the spec has a model fault here. -/
  | readUnwritten (offset : Nat)
  /-- `BufWrite` at an offset of BUF_CAP or more. Raised by FEED in Header or Payload in states no run reaches only (R31,
  log entry 8). Safe: the machine stops. -/
  | writeOutsideBuffer (offset : Nat)
  deriving DecidableEq, Repr

/-- Why a step is refused. -/
inductive Refusal where
  /-- Raised by exec's arms of instructions without a meaning; none is left. Safe. -/
  | notModelled (mnemonic : String)
  /-- `BufRead` at an offset of BUF_CAP or more: "the port has no such address" (R32, R83, D14). Raised by READ_BUF; by FEED
  only in states no run reaches. Safe: the spec has a model refuse here. -/
  | bufAddressOutOfRange (offset : Nat)
  deriving DecidableEq, Repr

/-- The whole state. `st` to `ceB` are the block's own registers and memory under their names in 10_state.md; the last
four fields are the model's own and no register of the block (INVENTORY.md, log entries 1 to 4). -/
structure State where
  /-- The framer's state register (R10). -/
  st      : FramerState
  /-- Number of frame bytes stored, and the offset of the next one; `0 .. BUF_CAP` (R12). -/
  idx     : Nat
  /-- Resolved payload length (R13). -/
  len     : Half
  /-- Pending result: the index of the matched registry entry (R14). -/
  name    : Option Nat
  /-- First expected checksum byte (R15). -/
  ckA     : Byte
  /-- Second expected checksum byte (R15). -/
  ckB     : Byte
  /-- The checksum-error counter, modulo `2 ^ ERR_W` (R16). -/
  err     : Nat
  /-- The return value of the most recent FEED (R17). -/
  res     : Option Nat
  /-- The receive buffer (R18). -/
  buf     : Memory
  /-- First accumulator of the stand-alone checksum engine (R19). -/
  ceA     : Byte
  /-- Second accumulator of the stand-alone checksum engine (R19). -/
  ceB     : Byte
  /-- The parameters, which no step changes (R6, R20). -/
  cfg     : Config
  /-- The event history, newest first (R85). -/
  events  : List Event
  /-- What the most recent read operation delivered to the consumer (R81 to R83, R60, R69). -/
  reading : Option Reading
  /-- What the environment presents next, oldest first (R2, R37). -/
  input   : List PortWord
  deriving DecidableEq, Repr

/-- The machine after RESET (R27) in the default configuration, nothing recorded and nothing presented. -/
def State.reset : State :=
  { st := .waitSync1, idx := 0, len := 0, name := none, ckA := 0, ckB := 0, err := 0, res := none, buf := [],
    ceA := 0, ceB := 0, cfg := defaultConfig, events := [], reading := none, input := [] }

end Sys2Proof.Machine
end

