-- ==== Sys2Proof/Machine/Ops.lean ====
section
/-! DEFINITION. Shared operations: sequencing, the receive buffer (20_memory.md R31, R32), the checksum function
(40_checksum.md R54), the drop, which is the block's only analogue of an exception (60_exceptions.md R91), the emit, the
checksum-error counter, and the fetch of the next presented word. There is no return from a drop (R93). -/

namespace Sys2Proof.Machine

/-- Sequencing: the second part runs on what the first part answers; a stop of the first part is the stop of both. -/
def andThen {α β : Type} (o : Host.Outcome α Fault Refusal) (k : α → Host.Outcome β Fault Refusal) :
    Host.Outcome β Fault Refusal :=
  match o with
  | .next a    => k a
  | .fault f   => .fault f
  | .refused r => .refused r

/-- The byte at an offset, none when it is unwritten. -/
def Memory.read : Memory → Nat → Option Byte
  | [],          _ => none
  | (k, v) :: m, a => if k = a then some v else Memory.read m a

/-- Store a byte, keeping the offsets strictly rising. -/
def Memory.write : Memory → Nat → Byte → Memory
  | [],          a, b => [(a, b)]
  | (k, v) :: m, a, b =>
    if a < k then (a, b) :: (k, v) :: m
    else if a = k then (a, b) :: m
    else (k, v) :: Memory.write m a b

/-- The canonical form: offsets strictly rising. An unlisted offset is unwritten, so every listed byte differs from what
an unlisted offset reads as. -/
def Memory.wf : Memory → Bool
  | []               => true
  | [_]              => true
  | (a, _) :: (b, v) :: m => decide (a < b) && Memory.wf ((b, v) :: m)

/-- Every listed offset is below the capacity. -/
def Memory.within (cap : Nat) (m : Memory) : Bool := m.all fun c => decide (c.1 < cap)

/-- `BufWrite(i, v)` (R31). An offset of BUF_CAP or more does not exist: the model faults (log entry 8). -/
def bufWrite (i : Nat) (v : Byte) (s : State) : Host.Outcome State Fault Refusal :=
  if i < s.cfg.bufCap then .next { s with buf := s.buf.write i v }
  else .fault (.writeOutsideBuffer i)

/-- `BufRead(i)` (R32): the stored byte; a fault when it is unwritten; refused when the port has no such address. -/
def bufRead (i : Nat) (s : State) : Host.Outcome Byte Fault Refusal :=
  if i < s.cfg.bufCap then
    match s.buf.read i with
    | some v => .next v
    | none   => .fault (.readUnwritten i)
  else .refused (.bufAddressOutOfRange i)

/-- The bytes `buf[i .. i+k)` in offset order, each by `BufRead`. -/
def bufReadRange (i : Nat) : Nat → State → Host.Outcome (List Byte) Fault Refusal
  | 0,     _ => .next []
  | k + 1, s => andThen (bufRead i s) fun b => andThen (bufReadRange (i + 1) k s) fun bs => .next (b :: bs)

/-- One byte of the running checksum: `a <- a + x`, then `b <- b + a` with the `a` just updated, both modulo 256 (R54). -/
def checksumStep (acc : Byte × Byte) (x : Byte) : Byte × Byte := (acc.1 + x, acc.2 + (acc.1 + x))

/-- `Checksum(s)`: both sums start at 0 and take the bytes in order (R54). -/
def checksum (s : List Byte) : Byte × Byte := s.foldl checksumStep (0, 0)

/-- The code of a drop cause (R85). -/
def Drop.code : Drop → Nat
  | .syncLoss _             => 1
  | .unknownSignature _ _ _ => 2
  | .checksumMismatch _ _ _ => 3
  | .overflow _ _           => 4

/-- A drop: the event is recorded and the framer returns to WaitSync1 in the same FEED; nothing is saved (R91). -/
def State.drop (s : State) (d : Drop) : State := { s with st := .waitSync1, events := .drop d :: s.events }

/-- `err <- (err + 1) mod 2^ERR_W` (R16). -/
def State.countError (s : State) : State := { s with err := (s.err + 1) % 2 ^ s.cfg.errW }

/-- A checksum mismatch: counted, then dropped (R89). -/
def State.mismatch (s : State) (which : CkByte) (expected got : Byte) : State :=
  s.countError.drop (.checksumMismatch which expected got)

/-- `res <- name` and back to WaitSync1; an emit event when there is a name (R77, 00_scope.md section 6 `emit`). -/
def State.emitName (s : State) : State :=
  { s with
    res := s.name, st := .waitSync1,
    events := match s.name with
      | some n => .emit n :: s.events
      | none   => s.events }

/-- `res <- none`, the first act of every FEED (R70). -/
def State.clearResult (s : State) : State := { s with res := none }

/-- Deliver a port's value to the consumer; the block itself is not touched (R36). -/
def State.deliver (s : State) (r : Reading) : State := { s with reading := some r }

/-- Every register at its value of R27 and every buffer byte unwritten (R103). The parameters stay (R20), and so do the
event history (a RESET records no event), what the consumer last read and what the environment presents next. -/
def State.applyReset (s : State) : State :=
  { s with
    st := .waitSync1, idx := 0, len := 0, name := none, ckA := 0, ckB := 0, err := 0, res := none,
    ceA := 0, ceB := 0, buf := [] }

/-- The numeric code of a framer state (R10). -/
def FramerState.code : FramerState → BitVec 3
  | .waitSync1 => 0
  | .waitSync2 => 1
  | .header    => 2
  | .payload   => 3
  | .checksumA => 4
  | .checksumB => 5

/-- The framer state whose FEED rule a realisation follows on finding a code: codes 6 and 7 are taken as WaitSync1 (R11). -/
def FramerState.ofCode (c : BitVec 3) : FramerState :=
  if c = 1 then .waitSync2
  else if c = 2 then .header
  else if c = 3 then .payload
  else if c = 4 then .checksumA
  else if c = 5 then .checksumB
  else .waitSync1

/-- The framer word of IDLE: neither `rst` nor `in_valid` (R49). -/
def idleWord : PortWord := .framer 0

/-- The word presented next and the state with it taken from the queue. When the environment presents nothing there is no
valid byte and no reset, which is IDLE's word (R49, R102). -/
def fetch (s : State) : PortWord × State :=
  match s.input with
  | []      => (idleWord, s)
  | p :: ps => (p, { s with input := ps })

end Sys2Proof.Machine
end

