-- ==== Sys2Proof/Machine/Operands.lean ====
section
/-! DEFINITION. Operand assembly at header completion (30_encoding.md R47, 20_memory.md R34), the frame on the wire (R45)
and the registry matcher's function (41_registry.md R64). -/

namespace Sys2Proof.Machine

/-- `wlen = zext_16(lo) + 256 × zext_16(hi)`: the length field, little-endian (R34, R47). -/
def wireLength (lo hi : Byte) : Half := lo.setWidth 16 + 256 * hi.setWidth 16

/-- `L[7:0]` (R45). -/
def lowByte (w : Half) : Byte := w.extractLsb' 0 8

/-- `L[15:8]` (R45). -/
def highByte (w : Half) : Byte := w.extractLsb' 8 8

/-- `(class, id, wlen)` from the four stored header bytes (R47). -/
def readHeader (s : State) : Host.Outcome (Byte × Byte × Half) Fault Refusal :=
  andThen (bufRead 0 s) fun c =>
  andThen (bufRead 1 s) fun i =>
  andThen (bufRead 2 s) fun lo =>
  andThen (bufRead 3 s) fun hi => .next (c, i, wireLength lo hi)

/-- The header bytes of a frame: class, id, length low byte, length high byte (R45). -/
def headerBytes (c i : Byte) (w : Half) : List Byte := [c, i, lowByte w, highByte w]

/-- `Frame(c, i, p)`, meant for `|p| < 65536` (R45). -/
def frame (c i : Byte) (p : List Byte) : List Byte :=
  let body := headerBytes c i (BitVec.ofNat 16 p.length) ++ p
  [sync1, sync2] ++ body ++ [(checksum body).1, (checksum body).2]

/-- Whether an entry matches a header: same class and id, and the declared length is the wire length or the sentinel 0
(R64). -/
def entryMatches (e : Entry) (c i : Byte) (w : Half) : Bool :=
  e.cls == c && e.id == i && (e.declLen == w || e.declLen == 0)

/-- The resolved length of a matching entry (R64). -/
def resolvedLength (e : Entry) (w : Half) : Half := if e.declLen = 0 then w else e.declLen

/-- The search of `Lookup` from index `n` on: the first match in table order (R64, R66). -/
def lookupFrom (n : Nat) : List Entry → Byte → Byte → Half → Option (Nat × Half)
  | [],      _, _, _ => none
  | e :: es, c, i, w =>
    if entryMatches e c i w then some (n, resolvedLength e w) else lookupFrom (n + 1) es c i w

/-- `Lookup(c, i, w)` in a registry: the index of the first matching entry and the resolved length (R64). -/
def lookup (registry : List Entry) (c i : Byte) (w : Half) : Option (Nat × Half) := lookupFrom 0 registry c i w

end Sys2Proof.Machine
end

