-- ==== Sys2Proof/Machine/Flags.lean ====
section
/-! DEFINITION. The block's outputs, all functions of the state (10_state.md R24, R17, R23; 41_registry.md R69). There are
no condition codes; `pkt_valid` is the only flag-like output (R23). -/

namespace Sys2Proof.Machine

/-- `pkt_valid = (res ≠ none)` (R17). -/
def State.pktValid (s : State) : Bool := s.res.isSome

/-- `pkt_name`: `n` when `res = some n`, else 0 (R17, R81). -/
def State.pktName (s : State) : Nat := s.res.getD 0

/-- `err_count` (R24). -/
def State.errCount (s : State) : Nat := s.err

/-- `ck_a_out` and `ck_b_out` (R60). -/
def State.ckOut (s : State) : Byte × Byte := (s.ceA, s.ceB)

/-- `lk_hit`, `lk_name`, `lk_rlen` for a result of `Lookup` (R69). -/
def lookupOutputs : Option (Nat × Half) → Reading
  | some (n, r) => .lookup true n r
  | none        => .lookup false 0 0

end Sys2Proof.Machine
end

