-- ==== Sys2Proof/Machine/Checksum.lean ====
section
/-! DEFINITION. The stand-alone checksum engine (40_checksum.md R57 to R60). -/

namespace Sys2Proof.Machine

/-- CK_CLEAR (R57). -/
def execCkClear (s : State) : Host.Outcome State Fault Refusal := .next { s with ceA := 0, ceB := 0 }

/-- CK_ACCUM b: one step of the checksum function on the engine's own accumulators (R58). -/
def execCkAccum (b : Byte) (s : State) : Host.Outcome State Fault Refusal :=
  .next { s with ceA := (checksumStep (s.ceA, s.ceB) b).1, ceB := (checksumStep (s.ceA, s.ceB) b).2 }

/-- CK_IDLE: nothing changes (R59). -/
def execCkIdle (s : State) : Host.Outcome State Fault Refusal := .next s

/-- READ_CK: delivers `ck_a_out`, `ck_b_out` (R60). -/
def execReadCk (s : State) : Host.Outcome State Fault Refusal := .next (s.deliver (.ckOut s.ckOut.1 s.ckOut.2))

end Sys2Proof.Machine
end

