-- ==== Sys2Proof/Machine/Framer.lean ====
section
/-! DEFINITION. FEED (42_framer.md R70 to R77) and the twelve FEED rows of the opcode table (30_encoding.md R50). -/

namespace Sys2Proof.Machine

/-- FEED in WaitSync1: clear `idx` and `name`, and look for `0xB5` (R71). -/
def feedWaitSync1 (b : Byte) (s : State) : Host.Outcome State Fault Refusal :=
  .next { s with idx := 0, name := none, st := if b = sync1 then .waitSync2 else .waitSync1 }

/-- FEED in WaitSync2: `0x62` starts a header; any other byte is a sync loss and is not tested again as `0xB5` (R72). -/
def feedWaitSync2 (b : Byte) (s : State) : Host.Outcome State Fault Refusal :=
  if b = sync2 then .next { s with idx := 0, st := .header }
  else .next (s.drop (.syncLoss b))

/-- The checksum of `buf[0 .. 4+len)` into `ck_a`, `ck_b`, and on to ChecksumA (R15, R55, R73, R75). -/
def enterChecksum (s : State) : Host.Outcome State Fault Refusal :=
  andThen (bufReadRange 0 (4 + s.len.toNat) s) fun bytes =>
    .next { s with ckA := (checksum bytes).1, ckB := (checksum bytes).2, st := .checksumA }

/-- A header with a registry match: the overflow guard, computed without wrapping, then name and length, and straight to
ChecksumA when there is no payload byte to wait for (R73, R74). -/
def admitHeader (n : Nat) (rlen : Half) (s : State) : Host.Outcome State Fault Refusal :=
  if s.cfg.bufCap < rlen.toNat + 4 then .next (s.drop (.overflow n rlen))
  else if rlen = 0 then enterChecksum { s with name := some n, len := rlen }
  else .next { s with name := some n, len := rlen, st := .payload }

/-- The fourth header byte is stored: the lookup decides, before the guard (R73, R94). -/
def completeHeader (s : State) : Host.Outcome State Fault Refusal :=
  andThen (readHeader s) fun h =>
    match lookup s.cfg.registry h.1 h.2.1 h.2.2 with
    | none           => .next (s.drop (.unknownSignature h.1 h.2.1 h.2.2))
    | some (n, rlen) => admitHeader n rlen s

/-- Store the byte at `idx` and count it (R12, R31). -/
def storeByte (b : Byte) (s : State) : Host.Outcome State Fault Refusal :=
  andThen (bufWrite s.idx b s) fun t => .next { t with idx := t.idx + 1 }

/-- FEED in Header (R73). -/
def feedHeader (b : Byte) (s : State) : Host.Outcome State Fault Refusal :=
  andThen (storeByte b s) fun t =>
    if t.idx = 4 then completeHeader t else .next { t with st := .header }

/-- FEED in Payload: the byte is stored unexamined; after the last one the checksum is computed (R75). -/
def feedPayload (b : Byte) (s : State) : Host.Outcome State Fault Refusal :=
  andThen (storeByte b s) fun t =>
    if t.idx = 4 + t.len.toNat then enterChecksum t else .next { t with st := .payload }

/-- FEED in ChecksumA: the byte is compared with `ck_a` and not stored (R76). -/
def feedChecksumA (b : Byte) (s : State) : Host.Outcome State Fault Refusal :=
  if b = s.ckA then .next { s with st := .checksumB } else .next (s.mismatch .a s.ckA b)

/-- FEED in ChecksumB: on a match the pending name is emitted (R77). -/
def feedChecksumB (b : Byte) (s : State) : Host.Outcome State Fault Refusal :=
  if b = s.ckB then .next s.emitName else .next (s.mismatch .b s.ckB b)

/-- FEED b: clear the result, then the one rule of the state at the start of the FEED (R70). -/
def feed (b : Byte) (s : State) : Host.Outcome State Fault Refusal :=
  match s.st with
  | .waitSync1 => feedWaitSync1 b s.clearResult
  | .waitSync2 => feedWaitSync2 b s.clearResult
  | .header    => feedHeader b s.clearResult
  | .payload   => feedPayload b s.clearResult
  | .checksumA => feedChecksumA b s.clearResult
  | .checksumB => feedChecksumB b s.clearResult

/-- FEED (R70). -/
def execFeed (b : Byte) (s : State) : Host.Outcome State Fault Refusal := feed b s

/-! The FEED rows. A row's condition is on the state and the byte (R50); where it holds, the row has its own effect as its
rule gives it. A row's word is a FEED's word, and no interface word is illegal (R51): where the condition does not hold,
the same word is a FEED under another row, which `feed` gives (log entry 5). -/

/-- FEED@WaitSync1.sync1 (R71). -/
def execFeedWaitSync1Sync1 (s : State) : Host.Outcome State Fault Refusal :=
  if s.st = .waitSync1 then .next { s with res := none, idx := 0, name := none, st := .waitSync2 }
  else feed sync1 s

/-- FEED@WaitSync1.noise (R71, R86). -/
def execFeedWaitSync1Noise (b : Byte) (s : State) : Host.Outcome State Fault Refusal :=
  if s.st = .waitSync1 ∧ b ≠ sync1 then .next { s with res := none, idx := 0, name := none }
  else feed b s

/-- FEED@WaitSync2.sync2 (R72). -/
def execFeedWaitSync2Sync2 (s : State) : Host.Outcome State Fault Refusal :=
  if s.st = .waitSync2 then .next { s with res := none, idx := 0, st := .header }
  else feed sync2 s

/-- FEED@WaitSync2.sync_loss (R72, R87). -/
def execFeedWaitSync2SyncLoss (b : Byte) (s : State) : Host.Outcome State Fault Refusal :=
  if s.st = .waitSync2 ∧ b ≠ sync2 then .next (s.clearResult.drop (.syncLoss b))
  else feed b s

/-- FEED@Header.byte: header byte 1 to 3, stored (R73). -/
def execFeedHeaderByte (b : Byte) (s : State) : Host.Outcome State Fault Refusal :=
  if s.st = .header ∧ s.idx < 3 then storeByte b s.clearResult
  else feed b s

/-- FEED@Header.last: the fourth header byte, stored, then lookup and guard (R73, R74). -/
def execFeedHeaderLast (b : Byte) (s : State) : Host.Outcome State Fault Refusal :=
  if s.st = .header ∧ s.idx = 3 then andThen (storeByte b s.clearResult) completeHeader
  else feed b s

/-- FEED@Payload.byte: a payload byte that is not the last, stored (R75). -/
def execFeedPayloadByte (b : Byte) (s : State) : Host.Outcome State Fault Refusal :=
  if s.st = .payload ∧ s.idx + 1 < 4 + s.len.toNat then storeByte b s.clearResult
  else feed b s

/-- FEED@Payload.last: the last payload byte, stored, then the checksum (R75). -/
def execFeedPayloadLast (b : Byte) (s : State) : Host.Outcome State Fault Refusal :=
  if s.st = .payload ∧ s.idx + 1 = 4 + s.len.toNat then andThen (storeByte b s.clearResult) enterChecksum
  else feed b s

/-- FEED@ChecksumA.good (R76). -/
def execFeedChecksumAGood (b : Byte) (s : State) : Host.Outcome State Fault Refusal :=
  if s.st = .checksumA ∧ b = s.ckA then .next { s with res := none, st := .checksumB }
  else feed b s

/-- FEED@ChecksumA.bad (R76, R89). -/
def execFeedChecksumABad (b : Byte) (s : State) : Host.Outcome State Fault Refusal :=
  if s.st = .checksumA ∧ b ≠ s.ckA then .next (s.clearResult.mismatch .a s.ckA b)
  else feed b s

/-- FEED@ChecksumB.good: emit (R77). -/
def execFeedChecksumBGood (b : Byte) (s : State) : Host.Outcome State Fault Refusal :=
  if s.st = .checksumB ∧ b = s.ckB then .next s.emitName
  else feed b s

/-- FEED@ChecksumB.bad (R77, R89). -/
def execFeedChecksumBBad (b : Byte) (s : State) : Host.Outcome State Fault Refusal :=
  if s.st = .checksumB ∧ b ≠ s.ckB then .next (s.clearResult.mismatch .b s.ckB b)
  else feed b s

/-- The row a FEED of a byte falls under in a state (R50). -/
def feedRow (b : Byte) (s : State) : Instr :=
  match s.st with
  | .waitSync1 => if b = sync1 then .feedWaitSync1Sync1 else .feedWaitSync1Noise b
  | .waitSync2 => if b = sync2 then .feedWaitSync2Sync2 else .feedWaitSync2SyncLoss b
  | .header    => if s.idx = 3 then .feedHeaderLast b else .feedHeaderByte b
  | .payload   => if s.idx + 1 = 4 + s.len.toNat then .feedPayloadLast b else .feedPayloadByte b
  | .checksumA => if b = s.ckA then .feedChecksumAGood b else .feedChecksumABad b
  | .checksumB => if b = s.ckB then .feedChecksumBGood b else .feedChecksumBBad b

end Sys2Proof.Machine
end

