-- ==== Sys2Proof/Machine/Ports.lean ====
section
/-! DEFINITION. RESET (70_reset_and_hazards.md R103), IDLE and the consumer's read ports (43_interface_ops.md R80 to R83). -/

namespace Sys2Proof.Machine

/-- RESET (R103). -/
def execReset (s : State) : Host.Outcome State Fault Refusal := .next s.applyReset

/-- IDLE: nothing changes (R80). -/
def execIdle (s : State) : Host.Outcome State Fault Refusal := .next s

/-- READ_RESULT: delivers `(pkt_valid, pkt_name)` (R81). -/
def execReadResult (s : State) : Host.Outcome State Fault Refusal := .next (s.deliver (.result s.pktValid s.pktName))

/-- READ_ERR: delivers `err_count`; the counter is not cleared (R82). -/
def execReadErr (s : State) : Host.Outcome State Fault Refusal := .next (s.deliver (.errCount s.errCount))

/-- READ_BUF a: delivers `BufRead(a)`, which faults on an unwritten byte and is refused from BUF_CAP up (R83, R32). -/
def execReadBuf (a : Nat) (s : State) : Host.Outcome State Fault Refusal :=
  andThen (bufRead a s) fun b => .next (s.deliver (.rdData b))

end Sys2Proof.Machine
end

