-- ==== Sys2Proof/Decode.lean ====
section
/-! DEFINITION. Decoding of port words and header words, and the encoder (30_encoding.md R47, R49, R51; opcode_table.json).
Every framer word and every checksum word decodes (R51); header words that match no signature row are rejected by name. -/

namespace Sys2Proof

/-- The framer input word `{rst, in_valid, in_byte[7:0]}`; `rst` wins over `in_valid` (R49, R94). -/
def decodeFramer (w : BitVec 10) : Instr :=
  if w.getLsbD 9 then .reset
  else if w.getLsbD 8 then .feed (w.extractLsb' 0 8)
  else .idle

/-- The checksum engine input word `{ck_clr, ck_en, ck_byte[7:0]}`; `ck_clr` wins over `ck_en` (R49, R57). -/
def decodeChecksum (w : BitVec 10) : Instr :=
  if w.getLsbD 9 then .ckClear
  else if w.getLsbD 8 then .ckAccum (w.extractLsb' 0 8)
  else .ckIdle

/-- The operation a port word is (R49): total, since no interface word is illegal (R51). -/
def decode : PortWord → Instr
  | .framer w     => decodeFramer w
  | .checksum w   => decodeChecksum w
  | .readResult   => .readResult
  | .readErr      => .readErr
  | .readBuf a    => .readBuf a
  | .readCk       => .readCk
  | .lookup c i w => .lookup c i w

/-- `sig[7:0]`, the class (R47). -/
def sigClass (h : BitVec 32) : Byte := h.extractLsb' 0 8

/-- `sig[15:8]`, the id (R47). -/
def sigId (h : BitVec 32) : Byte := h.extractLsb' 8 8

/-- `sig[31:16]`, the wire length (R47). -/
def sigLen (h : BitVec 32) : Half := h.extractLsb' 16 16

/-- The header word `{wlen, id, class}` (R47). -/
def sigWord (c i : Byte) (w : Half) : BitVec 32 := w ++ i ++ c

/-- The signature row a header word matches, rows tried in table order with their match and mask (R63, R64). -/
def decodeSignature (h : BitVec 32) : Except DecodeError Instr :=
  if h = 0x00540701 then .ok .sigFixV7
  else if h = 0x005C0701 then .ok .sigFixV8
  else if h = 0x00203106 then .ok .sigTimePulseCfg
  else if h = 0x00020105 then .ok .sigAck
  else if h = 0x00020005 then .ok .sigNak
  else if h &&& 0x0000FFFF = 0x00003501 then .ok (.sigSatelliteInfo (sigLen h))
  else if h &&& 0x0000FFFF = 0x00003E06 then .ok (.sigGnssEnableCfg (sigLen h))
  else .error .unknownSignature

/-- The port word of a 10-bit word on the framer port: two control bits and a byte. -/
def controlWord (high low : Bool) (b : Byte) : BitVec 10 := BitVec.ofBool high ++ BitVec.ofBool low ++ b

/-- The framer word of FEED b (R49). -/
def feedWord (b : Byte) : PortWord := .framer (controlWord false true b)

/-- The port word of an instruction, its don't-care bits 0. The word of a FEED row is FEED's (R50), and the word of a
signature row is presented on the lookup port (R69). -/
def encode : Instr → PortWord
  | .reset                   => .framer (controlWord true false 0)
  | .feed b                  => feedWord b
  | .idle                    => .framer (controlWord false false 0)
  | .ckClear                 => .checksum (controlWord true false 0)
  | .ckAccum b               => .checksum (controlWord false true b)
  | .ckIdle                  => .checksum (controlWord false false 0)
  | .readResult              => .readResult
  | .readErr                 => .readErr
  | .readBuf a               => .readBuf a
  | .readCk                  => .readCk
  | .lookup c i w            => .lookup c i w
  | .feedWaitSync1Sync1      => feedWord 0xB5
  | .feedWaitSync1Noise b    => feedWord b
  | .feedWaitSync2Sync2      => feedWord 0x62
  | .feedWaitSync2SyncLoss b => feedWord b
  | .feedHeaderByte b        => feedWord b
  | .feedHeaderLast b        => feedWord b
  | .feedPayloadByte b       => feedWord b
  | .feedPayloadLast b       => feedWord b
  | .feedChecksumAGood b     => feedWord b
  | .feedChecksumABad b      => feedWord b
  | .feedChecksumBGood b     => feedWord b
  | .feedChecksumBBad b      => feedWord b
  | .sigFixV7                => .lookup 0x01 0x07 84
  | .sigFixV8                => .lookup 0x01 0x07 92
  | .sigTimePulseCfg         => .lookup 0x06 0x31 32
  | .sigAck                  => .lookup 0x05 0x01 2
  | .sigNak                  => .lookup 0x05 0x00 2
  | .sigSatelliteInfo w      => .lookup 0x01 0x35 w
  | .sigGnssEnableCfg w      => .lookup 0x06 0x3E w

/-- The interface operation whose word a row's word is: a FEED row's is FEED (R50), a signature row's is LOOKUP of its
header (R47, R69), and an interface operation is its own. -/
def Instr.base : Instr → Instr
  | .reset                   => .reset
  | .feed b                  => .feed b
  | .idle                    => .idle
  | .ckClear                 => .ckClear
  | .ckAccum b               => .ckAccum b
  | .ckIdle                  => .ckIdle
  | .readResult              => .readResult
  | .readErr                 => .readErr
  | .readBuf a               => .readBuf a
  | .readCk                  => .readCk
  | .lookup c i w            => .lookup c i w
  | .feedWaitSync1Sync1      => .feed 0xB5
  | .feedWaitSync1Noise b    => .feed b
  | .feedWaitSync2Sync2      => .feed 0x62
  | .feedWaitSync2SyncLoss b => .feed b
  | .feedHeaderByte b        => .feed b
  | .feedHeaderLast b        => .feed b
  | .feedPayloadByte b       => .feed b
  | .feedPayloadLast b       => .feed b
  | .feedChecksumAGood b     => .feed b
  | .feedChecksumABad b      => .feed b
  | .feedChecksumBGood b     => .feed b
  | .feedChecksumBBad b      => .feed b
  | .sigFixV7                => .lookup 0x01 0x07 84
  | .sigFixV8                => .lookup 0x01 0x07 92
  | .sigTimePulseCfg         => .lookup 0x06 0x31 32
  | .sigAck                  => .lookup 0x05 0x01 2
  | .sigNak                  => .lookup 0x05 0x00 2
  | .sigSatelliteInfo w      => .lookup 0x01 0x35 w
  | .sigGnssEnableCfg w      => .lookup 0x06 0x3E w

/-- The number a port word is as the opcode table numbers it: a 10-bit word in the low bits, a LOOKUP as the 32-bit
header word of R47; the other ports carry no word. -/
def PortWord.tableWord : PortWord → Option (BitVec 32)
  | .framer w     => some (w.setWidth 32)
  | .checksum w   => some (w.setWidth 32)
  | .lookup c i w => some (sigWord c i w)
  | .readResult | .readErr | .readBuf _ | .readCk => none

/-- The match and mask of an instruction's row in opcode_table.json (the port rows have none). -/
def Instr.tableRow : Instr → Option TableRow
  | .reset                   => some ⟨0x200, 0x200⟩
  | .feed _                  => some ⟨0x300, 0x100⟩
  | .idle                    => some ⟨0x300, 0x000⟩
  | .ckClear                 => some ⟨0x200, 0x200⟩
  | .ckAccum _               => some ⟨0x300, 0x100⟩
  | .ckIdle                  => some ⟨0x300, 0x000⟩
  | .readResult | .readErr | .readBuf _ | .readCk | .lookup _ _ _ => none
  | .feedWaitSync1Sync1      => some ⟨0x3FF, 0x1B5⟩
  | .feedWaitSync1Noise _    => some ⟨0x300, 0x100⟩
  | .feedWaitSync2Sync2      => some ⟨0x3FF, 0x162⟩
  | .feedWaitSync2SyncLoss _ => some ⟨0x300, 0x100⟩
  | .feedHeaderByte _        => some ⟨0x300, 0x100⟩
  | .feedHeaderLast _        => some ⟨0x300, 0x100⟩
  | .feedPayloadByte _       => some ⟨0x300, 0x100⟩
  | .feedPayloadLast _       => some ⟨0x300, 0x100⟩
  | .feedChecksumAGood b     => some ⟨0x3FF, 0x100 ||| b.setWidth 32⟩
  | .feedChecksumABad _      => some ⟨0x300, 0x100⟩
  | .feedChecksumBGood b     => some ⟨0x3FF, 0x100 ||| b.setWidth 32⟩
  | .feedChecksumBBad _      => some ⟨0x300, 0x100⟩
  | .sigFixV7                => some ⟨0xFFFFFFFF, 0x00540701⟩
  | .sigFixV8                => some ⟨0xFFFFFFFF, 0x005C0701⟩
  | .sigTimePulseCfg         => some ⟨0xFFFFFFFF, 0x00203106⟩
  | .sigAck                  => some ⟨0xFFFFFFFF, 0x00020105⟩
  | .sigNak                  => some ⟨0xFFFFFFFF, 0x00020005⟩
  | .sigSatelliteInfo _      => some ⟨0x0000FFFF, 0x00003501⟩
  | .sigGnssEnableCfg _      => some ⟨0x0000FFFF, 0x00003E06⟩

/-- The port word that a table number is: a 10-bit number of at most 16 table bits is a framer word, and any other number
of at most 32 bits is a header word on the lookup port. The table's 10-bit numbers do not name their port; a checksum
word has the framer word's number and is read as a framer word here (log entry 7). -/
def portWordOfTable (nbits w : Nat) : Except DecodeError PortWord :=
  if nbits ≤ 16 ∧ w < 2 ^ 10 then .ok (.framer (BitVec.ofNat 10 w))
  else if w < 2 ^ 32 then
    let h := BitVec.ofNat 32 w
    .ok (.lookup (sigClass h) (sigId h) (sigLen h))
  else .error .wordTooWide

/-- The instruction of a table number: a framer word's operation, or the signature row of a header word. -/
def decodeTable (nbits w : Nat) : Except DecodeError Instr :=
  match portWordOfTable nbits w with
  | .ok (.lookup c i len) => decodeSignature (sigWord c i len)
  | .ok p                 => .ok (decode p)
  | .error e              => .error e

/-- The instruction the decoder reads from table bits, none where it rejects them. -/
def decodeTableWord (nbits w : Nat) : Option Instr :=
  match decodeTable nbits w with
  | .ok i    => some i
  | .error _ => none

end Sys2Proof
end

