-- ==== Sys2Proof/Machine/Registry.lean ====
section
/-! DEFINITION. The registry matcher's port (41_registry.md R69) and the seven signature rows of the opcode table (R63). -/

namespace Sys2Proof.Machine

/-- The matcher's answer to a header, delivered on the lookup port; no register changes (R64, R69). -/
def answerLookup (c i : Byte) (w : Half) (s : State) : Host.Outcome State Fault Refusal :=
  .next (s.deliver (lookupOutputs (lookup s.cfg.registry c i w)))

/-- LOOKUP c i w (R69). -/
def execLookup (c i : Byte) (w : Half) (s : State) : Host.Outcome State Fault Refusal := answerLookup c i w s

/-! The signature rows. A row's word is a header word `{wlen, id, class}` (R47); its meaning is the answer the registry
matcher of R64 gives that header (log entry 6). The framer uses the same matcher in `completeHeader`. -/

/-- SIG:fix-v7 (R63, index 0). -/
def execSigFixV7 (s : State) : Host.Outcome State Fault Refusal := answerLookup 0x01 0x07 84 s

/-- SIG:fix-v8 (R63, index 1). -/
def execSigFixV8 (s : State) : Host.Outcome State Fault Refusal := answerLookup 0x01 0x07 92 s

/-- SIG:time-pulse-cfg (R63, index 2). -/
def execSigTimePulseCfg (s : State) : Host.Outcome State Fault Refusal := answerLookup 0x06 0x31 32 s

/-- SIG:ack (R63, index 3). -/
def execSigAck (s : State) : Host.Outcome State Fault Refusal := answerLookup 0x05 0x01 2 s

/-- SIG:nak (R63, index 4). -/
def execSigNak (s : State) : Host.Outcome State Fault Refusal := answerLookup 0x05 0x00 2 s

/-- SIG:satellite-info, any wire length (R63, index 5). -/
def execSigSatelliteInfo (w : Half) (s : State) : Host.Outcome State Fault Refusal := answerLookup 0x01 0x35 w s

/-- SIG:gnss-enable-cfg, any wire length (R63, index 6). -/
def execSigGnssEnableCfg (w : Half) (s : State) : Host.Outcome State Fault Refusal := answerLookup 0x06 0x3E w s

/-- The signature row a header falls under, none when it is unassigned (R51, R63). -/
def signatureRow (c i : Byte) (w : Half) : Option Instr :=
  match decodeSignature (sigWord c i w) with
  | .ok row  => some row
  | .error _ => none

end Sys2Proof.Machine
end

