-- ==== Sys2Proof/Machine/Dispatch.lean ====
section
/-! DEFINITION. One arm per row of the opcode table. -/

namespace Sys2Proof.Machine

def exec (i : Instr) (s : State) : Host.Outcome State Fault Refusal :=
  match i with
  | .reset => Sys2Proof.Machine.execReset s
  | .feed b => Sys2Proof.Machine.execFeed b s
  | .idle => Sys2Proof.Machine.execIdle s
  | .ckClear => Sys2Proof.Machine.execCkClear s
  | .ckAccum b => Sys2Proof.Machine.execCkAccum b s
  | .ckIdle => Sys2Proof.Machine.execCkIdle s
  | .readResult => Sys2Proof.Machine.execReadResult s
  | .readErr => Sys2Proof.Machine.execReadErr s
  | .readBuf a => Sys2Proof.Machine.execReadBuf a s
  | .readCk => Sys2Proof.Machine.execReadCk s
  | .lookup c id w => Sys2Proof.Machine.execLookup c id w s
  | .feedWaitSync1Sync1 => Sys2Proof.Machine.execFeedWaitSync1Sync1 s
  | .feedWaitSync1Noise b => Sys2Proof.Machine.execFeedWaitSync1Noise b s
  | .feedWaitSync2Sync2 => Sys2Proof.Machine.execFeedWaitSync2Sync2 s
  | .feedWaitSync2SyncLoss b => Sys2Proof.Machine.execFeedWaitSync2SyncLoss b s
  | .feedHeaderByte b => Sys2Proof.Machine.execFeedHeaderByte b s
  | .feedHeaderLast b => Sys2Proof.Machine.execFeedHeaderLast b s
  | .feedPayloadByte b => Sys2Proof.Machine.execFeedPayloadByte b s
  | .feedPayloadLast b => Sys2Proof.Machine.execFeedPayloadLast b s
  | .feedChecksumAGood b => Sys2Proof.Machine.execFeedChecksumAGood b s
  | .feedChecksumABad b => Sys2Proof.Machine.execFeedChecksumABad b s
  | .feedChecksumBGood b => Sys2Proof.Machine.execFeedChecksumBGood b s
  | .feedChecksumBBad b => Sys2Proof.Machine.execFeedChecksumBBad b s
  | .sigFixV7 => Sys2Proof.Machine.execSigFixV7 s
  | .sigFixV8 => Sys2Proof.Machine.execSigFixV8 s
  | .sigTimePulseCfg => Sys2Proof.Machine.execSigTimePulseCfg s
  | .sigAck => Sys2Proof.Machine.execSigAck s
  | .sigNak => Sys2Proof.Machine.execSigNak s
  | .sigSatelliteInfo w => Sys2Proof.Machine.execSigSatelliteInfo w s
  | .sigGnssEnableCfg w => Sys2Proof.Machine.execSigGnssEnableCfg w s

end Sys2Proof.Machine
end

