-- ==== Sys2Proof/Machine/Step.lean ====
section
/-! DEFINITION. One transaction: take the word presented next, decode it and run it (00_scope.md R9, 20_memory.md R37). -/

namespace Sys2Proof.Machine

/-- One atomic step per interface operation (R9); with no word presented, IDLE (R102). -/
def step (s : State) : Host.Outcome State Fault Refusal := exec (decode (fetch s).1) (fetch s).2

/-- `s` with the word that a table number is presented before everything else in the queue; `s` itself where the number
is no word. -/
def State.withFetchWord (s : State) (nbits w : Nat) : State :=
  match portWordOfTable nbits w with
  | .ok p    => { s with input := p :: s.input }
  | .error _ => s

end Sys2Proof.Machine
end

