-- ==== Sys2Proof/Machine/Stream.lean ====
section
/-! DEFINITION. Sequences of operations: the notation of 30_encoding.md R53 and its expansions, runs of operations, and one
cycle of the optional clocked mapping (92_eei_decisions.md D2). -/

namespace Sys2Proof.Machine

/-- Run operations in order, stopping at the first stop. -/
def execAll : List Instr → State → Host.Outcome State Fault Refusal
  | [],      s => .next s
  | i :: is, s => andThen (exec i s) (execAll is)

/-- `FEEDS b1 … bk` as operations (R53). -/
def feeds (bs : List Byte) : List Instr := bs.map Instr.feed

/-- `FRAME c i [p…]` (R53). -/
def frameOps (c i : Byte) (p : List Byte) : List Instr := feeds (frame c i p)

/-- `POLL c i` (R53). -/
def pollOps (c i : Byte) : List Instr := frameOps c i []

/-- `ZEROS k` (R53). -/
def zeros (k : Nat) : List Byte := List.replicate k 0

/-- `CK_BYTES b1 … bk` (R53). -/
def ckBytes (bs : List Byte) : List Instr := bs.map Instr.ckAccum

/-- The environment presents operations, in order, before what it presents already (R37). -/
def State.presenting (s : State) (is : List Instr) : State := { s with input := is.map encode ++ s.input }

/-- The bytes a frame generator emits: the sync bytes, each byte it folds into the engine after one CK_CLEAR, then the
engine's outputs (R61); `s` is the state in which it reads the engine. -/
def generated (c i : Byte) (p : List Byte) (s : State) : List Byte :=
  [sync1, sync2] ++ (headerBytes c i (BitVec.ofNat 16 p.length) ++ p) ++ [s.ckOut.1, s.ckOut.2]

/-- The operations of a frame generator on the engine (R61). -/
def generatorOps (c i : Byte) (p : List Byte) : List Instr :=
  .ckClear :: ckBytes (headerBytes c i (BitVec.ofNat 16 p.length) ++ p)

/-- One cycle of the optional clocked mapping: a framer word and a checksum word, as two successive transactions, the
framer word first (D2, R49; log entry 13). -/
def clockedCycle (framerWord checksumWord : BitVec 10) (s : State) : Host.Outcome State Fault Refusal :=
  execAll [decodeFramer framerWord, decodeChecksum checksumWord] s

end Sys2Proof.Machine
end

