-- ==== Sys2Proof/Safety.lean ====
section
/-! DEFINITION. The invariant of every run from reset (10_state.md R26), accepted frames (30_encoding.md R48), and states
no observer can tell apart (10_state.md R25). -/

namespace Sys2Proof.Machine

/-- The buffer holds these bytes from offset 0 on, all written. -/
def BufHolds (s : State) (bs : List Byte) : Prop := ∀ k, k < bs.length → s.buf.read k = bs[k]?

/-- A frame whose header was admitted is in the buffer: `bs` are the `idx` bytes stored so far, and their header is the
one that matched entry `n` with the resolved length `len`, which fits (R26, R73, R74). -/
structure FrameInProgress (s : State) (n : Nat) (bs : List Byte) : Prop where
  name_eq  : s.name = some n
  fits     : 4 + s.len.toNat ≤ s.cfg.bufCap
  stored   : BufHolds s bs
  count    : bs.length = s.idx
  header   : ∃ c i lo hi p, bs = c :: i :: lo :: hi :: p ∧ lookup s.cfg.registry c i (wireLength lo hi) = some (n, s.len)

/-- What R26 says of the framer's registers in each state, with the stored bytes written out. -/
def FramerInv (s : State) : Prop :=
  match s.st with
  | .waitSync1 => s.idx ≤ s.cfg.bufCap
  | .waitSync2 => s.idx = 0 ∧ s.name = none
  | .header    => s.idx ≤ 3 ∧ s.name = none ∧ ∃ bs, bs.length = s.idx ∧ BufHolds s bs
  | .payload   => ∃ n bs, FrameInProgress s n bs ∧ 1 ≤ s.len.toNat ∧ s.idx < 4 + s.len.toNat
  | .checksumA | .checksumB =>
    ∃ n bs, FrameInProgress s n bs ∧ s.idx = 4 + s.len.toNat ∧ (s.ckA, s.ckB) = checksum bs

/-- The invariant: a canonical buffer inside the capacity, a counter inside its width, a result only in WaitSync1 and
naming an entry, and R26's table. -/
structure Inv (s : State) : Prop where
  canonical : s.buf.wf = true
  within    : s.buf.within s.cfg.bufCap = true
  err_lt    : s.err < 2 ^ s.cfg.errW
  result    : ∀ n, s.res = some n → s.st = .waitSync1 ∧ n < s.cfg.entries
  framer    : FramerInv s

/-- A frame `Frame(c, i, p)` the framer accepts under the name code `n` (R48). -/
structure Accepted (cfg : Config) (c i : Byte) (p : List Byte) (n : Nat) : Prop where
  short  : p.length < 65536
  known  : lookup cfg.registry c i (BitVec.ofNat 16 p.length) = some (n, BitVec.ofNat 16 p.length)
  fits   : 4 + p.length ≤ cfg.bufCap

/-- Two states that differ at most in registers whose values no later rule reads before writing: `idx` and `name` in
WaitSync1, `len` before Payload, `ck_a` and `ck_b` before ChecksumA (R13, R14, R15, R25). -/
structure Indistinguishable (s t : State) : Prop where
  st_eq      : s.st = t.st
  idx_eq     : s.st ≠ .waitSync1 → s.idx = t.idx
  name_eq    : s.st ≠ .waitSync1 → s.name = t.name
  len_eq     : s.st = .payload ∨ s.st = .checksumA ∨ s.st = .checksumB → s.len = t.len
  ck_eq      : s.st = .checksumA ∨ s.st = .checksumB → s.ckA = t.ckA ∧ s.ckB = t.ckB
  err_eq     : s.err = t.err
  res_eq     : s.res = t.res
  buf_eq     : s.buf = t.buf
  ce_eq      : s.ceA = t.ceA ∧ s.ceB = t.ceB
  cfg_eq     : s.cfg = t.cfg
  events_eq  : s.events = t.events
  reading_eq : s.reading = t.reading
  input_eq   : s.input = t.input

/-- Two outcomes of the same kind: next states related by `R`, or the same stop. -/
def OutcomesAgree (R : State → State → Prop) :
    Host.Outcome State Fault Refusal → Host.Outcome State Fault Refusal → Prop
  | .next s,    .next t    => R s t
  | .fault f,   .fault g   => f = g
  | .refused r, .refused q => r = q
  | _,          _          => False

end Sys2Proof.Machine
end

