-- ==== Sys2Proof/WellFormed.lean ====
section
/-! DEFINITION. Which terms of `Instr` are rows of the opcode table with admissible operands. -/

namespace Sys2Proof

/-- The static side of a row's condition (opcode_table.json "condition") and the width of `rd_addr` (R83). The other
operands fill their fields by type. -/
def Instr.wellFormed (cfg : Config) : Instr → Bool
  | .readBuf a               => decide (a < 2 ^ cfg.idxW)
  | .feedWaitSync1Noise b    => b != sync1
  | .feedWaitSync2SyncLoss b => b != sync2
  | .reset | .feed _ | .idle | .ckClear | .ckAccum _ | .ckIdle
  | .readResult | .readErr | .readCk | .lookup _ _ _
  | .feedWaitSync1Sync1 | .feedWaitSync2Sync2
  | .feedHeaderByte _ | .feedHeaderLast _ | .feedPayloadByte _ | .feedPayloadLast _
  | .feedChecksumAGood _ | .feedChecksumABad _ | .feedChecksumBGood _ | .feedChecksumBBad _
  | .sigFixV7 | .sigFixV8 | .sigTimePulseCfg | .sigAck | .sigNak
  | .sigSatelliteInfo _ | .sigGnssEnableCfg _ => true

end Sys2Proof
end

