-- ==== Sys2Proof/Certificates/Slice0/Obligations.lean ====
section
/-! DEFINITION. The statements for the provers, and the few functions of the spec's tables they are written with. -/

namespace Sys2Proof.Spec

open Sys2Proof Sys2Proof.Machine

/-- An entry matches a header (41_registry.md R64, the condition of its loop). -/
def Matches (e : Entry) (c i : Byte) (w : Half) : Prop := e.cls = c ∧ e.id = i ∧ (e.declLen = w ∨ e.declLen = 0)

/-- The state after a FEED that stores its byte and stays where it is (R73, R75). -/
def stored (b : Byte) (s : State) : State := { s with res := none, buf := s.buf.write s.idx b, idx := s.idx + 1 }

/-- The state after the fourth header byte `b`, the first three being `c`, `i`, `lo` (R73, R74). -/
def afterHeader (c i lo b : Byte) (s : State) : State :=
  let w : Half := BitVec.ofNat 16 (lo.toNat + 256 * b.toNat)
  let t := stored b s
  match lookup s.cfg.registry c i w with
  | none => { t with st := .waitSync1, events := .drop (.unknownSignature c i w) :: s.events }
  | some (n, r) =>
    if s.cfg.bufCap < r.toNat + 4 then { t with st := .waitSync1, events := .drop (.overflow n r) :: s.events }
    else if r = 0 then
      { t with
        st := .checksumA, name := some n, len := 0,
        ckA := (checksum [c, i, lo, b]).1, ckB := (checksum [c, i, lo, b]).2 }
    else { t with st := .payload, name := some n, len := r }

/-- The state after the last payload byte `b`, the bytes before it being `bs` (R75). -/
def afterPayload (bs : List Byte) (b : Byte) (s : State) : State :=
  { stored b s with st := .checksumA, ckA := (checksum (bs ++ [b])).1, ckB := (checksum (bs ++ [b])).2 }

/-- The state after a checksum byte that differs from the expected one (R89). -/
def afterMismatch (k : CkByte) (expected b : Byte) (s : State) : State :=
  { s with
    res := none, st := .waitSync1, err := (s.err + 1) % 2 ^ s.cfg.errW,
    events := .drop (.checksumMismatch k expected b) :: s.events }

/-- The condition column of the FEED rows of opcode_table.json (R50). -/
def RowCondition (s : State) : Instr → Prop
  | .feedWaitSync1Sync1      => s.st = .waitSync1
  | .feedWaitSync1Noise b    => s.st = .waitSync1 ∧ b ≠ 0xB5
  | .feedWaitSync2Sync2      => s.st = .waitSync2
  | .feedWaitSync2SyncLoss b => s.st = .waitSync2 ∧ b ≠ 0x62
  | .feedHeaderByte _        => s.st = .header ∧ s.idx < 3
  | .feedHeaderLast _        => s.st = .header ∧ s.idx = 3
  | .feedPayloadByte _       => s.st = .payload ∧ s.idx + 1 < 4 + s.len.toNat
  | .feedPayloadLast _       => s.st = .payload ∧ s.idx + 1 = 4 + s.len.toNat
  | .feedChecksumAGood b     => s.st = .checksumA ∧ b = s.ckA
  | .feedChecksumABad b      => s.st = .checksumA ∧ b ≠ s.ckA
  | .feedChecksumBGood b     => s.st = .checksumB ∧ b = s.ckB
  | .feedChecksumBBad b      => s.st = .checksumB ∧ b ≠ s.ckB
  | .reset | .feed _ | .idle | .ckClear | .ckAccum _ | .ckIdle
  | .readResult | .readErr | .readBuf _ | .readCk | .lookup _ _ _
  | .sigFixV7 | .sigFixV8 | .sigTimePulseCfg | .sigAck | .sigNak
  | .sigSatelliteInfo _ | .sigGnssEnableCfg _ => False

/-- The operations that only deliver a value to the consumer (R9, R36). -/
def IsRead (i : Instr) : Prop :=
  i = .readResult ∨ i = .readErr ∨ (∃ a, i = .readBuf a) ∨ i = .readCk ∨ ∃ c d w, i.base = .lookup c d w

/-- Whether a FEED of `b` finds a wrong checksum byte (R16). -/
def Mismatch (b : Byte) (s : State) : Prop := (s.st = .checksumA ∧ b ≠ s.ckA) ∨ (s.st = .checksumB ∧ b ≠ s.ckB)

end Sys2Proof.Spec

open Sys2Proof Sys2Proof.Machine Sys2Proof.Spec

/-! Reset -/

/-- R27: the state after reset. -/
def Obligations.ResetStateHoldsSpecValues : Prop :=
  State.reset.st = .waitSync1 ∧ State.reset.idx = 0 ∧ State.reset.len = 0 ∧ State.reset.name = none ∧
  State.reset.ckA = 0 ∧ State.reset.ckB = 0 ∧ State.reset.err = 0 ∧ State.reset.res = none ∧
  (∀ a, State.reset.buf.read a = none) ∧ State.reset.ceA = 0 ∧ State.reset.ceB = 0

/-- RESET in any state, its word with any don't-care bits (R103, R49), recording no event. R103 says that no drop event is
recorded; that the events recorded before are kept is the model's choice (log entry 4). -/
def Obligations.ResetRestoresEveryRegister : Prop :=
  (∀ w : BitVec 10, w.getLsbD 9 = true → decode (.framer w) = .reset) ∧
  ∀ s : State, ∃ t, exec .reset s = .next t ∧
    t.st = .waitSync1 ∧ t.idx = 0 ∧ t.len = 0 ∧ t.name = none ∧ t.ckA = 0 ∧ t.ckB = 0 ∧ t.err = 0 ∧ t.res = none ∧
    t.ceA = 0 ∧ t.ceB = 0 ∧ (∀ a, t.buf.read a = none) ∧ t.events = s.events

/-- The model's choice (log entries 1 to 4): RESET leaves the parameters, the event history, what the consumer last read
and what the environment presents next. -/
def Obligations.ResetKeepsModelFields : Prop :=
  ∀ s : State, exec .reset s =
    .next { State.reset with cfg := s.cfg, events := s.events, reading := s.reading, input := s.input }

/-! FEED, one statement per state -/

/-- R71. -/
def Obligations.FeedInWaitSync1 : Prop :=
  ∀ (b : Byte) (s : State), s.st = .waitSync1 →
    (b = 0xB5 → exec (.feed b) s = .next { s with res := none, idx := 0, name := none, st := .waitSync2 }) ∧
    (b ≠ 0xB5 → exec (.feed b) s = .next { s with res := none, idx := 0, name := none })

/-- R72, R87. -/
def Obligations.FeedInWaitSync2 : Prop :=
  ∀ (b : Byte) (s : State), s.st = .waitSync2 →
    (b = 0x62 → exec (.feed b) s = .next { s with res := none, idx := 0, st := .header }) ∧
    (b ≠ 0x62 → exec (.feed b) s =
      .next { s with res := none, st := .waitSync1, events := .drop (.syncLoss b) :: s.events })

/-- R73 and R74: a header byte that is not the fourth is stored; the fourth is stored and then decided on. -/
def Obligations.FeedInHeader : Prop :=
  ∀ (b : Byte) (s : State), s.st = .header →
    (s.idx ≠ 3 → s.idx < s.cfg.bufCap → exec (.feed b) s = .next (stored b s)) ∧
    (∀ c i lo : Byte, s.idx = 3 → BufHolds s [c, i, lo] → exec (.feed b) s = .next (afterHeader c i lo b s))

/-- R75. -/
def Obligations.FeedInPayload : Prop :=
  ∀ (b : Byte) (s : State), s.st = .payload → s.idx < s.cfg.bufCap →
    (s.idx + 1 ≠ 4 + s.len.toNat → exec (.feed b) s = .next (stored b s)) ∧
    (∀ bs : List Byte, s.idx + 1 = 4 + s.len.toNat → bs.length = s.idx → BufHolds s bs →
      exec (.feed b) s = .next (afterPayload bs b s))

/-- R76. -/
def Obligations.FeedInChecksumA : Prop :=
  ∀ (b : Byte) (s : State), s.st = .checksumA →
    (b = s.ckA → exec (.feed b) s = .next { s with res := none, st := .checksumB }) ∧
    (b ≠ s.ckA → exec (.feed b) s = .next (afterMismatch .a s.ckA b s))

/-- R77. -/
def Obligations.FeedInChecksumB : Prop :=
  ∀ (b : Byte) (s : State), s.st = .checksumB →
    (∀ n, b = s.ckB → s.name = some n → exec (.feed b) s =
      .next { s with res := some n, st := .waitSync1, events := .emit n :: s.events }) ∧
    (b ≠ s.ckB → exec (.feed b) s = .next (afterMismatch .b s.ckB b s))

/-- The model's choices in states no run reaches (log entries 8, 9, 18): a store at or beyond BUF_CAP faults, a FEED that
needs the header or the frame faults at the first unwritten byte of it, and a match at ckB without a pending name emits
nothing. -/
def Obligations.FeedOutsideReachableStates : Prop :=
  ∀ (b : Byte) (s : State),
    ((s.st = .header ∨ s.st = .payload) → s.cfg.bufCap ≤ s.idx →
      exec (.feed b) s = .fault (.writeOutsideBuffer s.idx)) ∧
    (∀ k, s.st = .header → s.idx = 3 → k < 3 → (∀ j, j < k → s.buf.read j ≠ none) → s.buf.read k = none →
      exec (.feed b) s = .fault (.readUnwritten k)) ∧
    (∀ k, s.st = .payload → s.idx < s.cfg.bufCap → s.idx + 1 = 4 + s.len.toNat → k < s.idx →
      (∀ j, j < k → s.buf.read j ≠ none) → s.buf.read k = none → exec (.feed b) s = .fault (.readUnwritten k)) ∧
    (s.st = .checksumB → b = s.ckB → s.name = none → exec (.feed b) s = .next { s with res := none, st := .waitSync1 })

/-- R91, R94: what a FEED can record: one drop, back in WaitSync1 without a result; one emit with its result; or nothing. -/
def Obligations.FeedRecordsAtMostOneEvent : Prop :=
  ∀ (b : Byte) (s t : State), exec (.feed b) s = .next t →
    (∃ d, t.events = .drop d :: s.events ∧ t.st = .waitSync1 ∧ t.res = none ∧
      (t.err ≠ s.err → d.code = 3)) ∨
    (∃ n, t.events = .emit n :: s.events ∧ t.st = .waitSync1 ∧ t.res = some n ∧ t.err = s.err) ∨
    (t.events = s.events ∧ t.res = none ∧ t.err = s.err)

/-- The frame of FEED: the buffer changes at `idx` only, and only in Header and Payload; the engine, the parameters and
the consumer's side do not change; `len`, `ck_a`, `ck_b` change only where their rules write them. -/
def Obligations.FeedFrame : Prop :=
  ∀ (b : Byte) (s t : State), exec (.feed b) s = .next t →
    (s.st = .header ∨ s.st = .payload →
      t.buf.read s.idx = some b ∧ ∀ a, a ≠ s.idx → t.buf.read a = s.buf.read a) ∧
    (s.st ≠ .header → s.st ≠ .payload → ∀ a, t.buf.read a = s.buf.read a) ∧
    t.ceA = s.ceA ∧ t.ceB = s.ceB ∧ t.cfg = s.cfg ∧ t.reading = s.reading ∧ t.input = s.input ∧
    (s.st ≠ .header → t.len = s.len) ∧
    (t.st ≠ .checksumA → t.ckA = s.ckA ∧ t.ckB = s.ckB) ∧
    (s.st ≠ .waitSync1 → s.st ≠ .header → t.name = s.name)

/-- R16: the counter's value after every operation. -/
def Obligations.ErrCountsMismatchesOnly : Prop :=
  ∀ (i : Instr) (s t : State), exec i s = .next t →
    (i = .reset → t.err = 0) ∧
    (∀ b, i.base = .feed b → Mismatch b s → t.err = (s.err + 1) % 2 ^ s.cfg.errW) ∧
    (i ≠ .reset → (∀ b, i.base = .feed b → ¬ Mismatch b s) → t.err = s.err)

/-! The FEED rows and the signature rows -/

/-- The rows of WaitSync1 and WaitSync2 (R71, R72). -/
def Obligations.SyncRowsComplete : Prop :=
  ∀ (b : Byte) (s : State),
    (s.st = .waitSync1 → exec .feedWaitSync1Sync1 s =
      .next { s with res := none, idx := 0, name := none, st := .waitSync2 }) ∧
    (s.st = .waitSync1 → b ≠ 0xB5 → exec (.feedWaitSync1Noise b) s =
      .next { s with res := none, idx := 0, name := none }) ∧
    (s.st = .waitSync2 → exec .feedWaitSync2Sync2 s = .next { s with res := none, idx := 0, st := .header }) ∧
    (s.st = .waitSync2 → b ≠ 0x62 → exec (.feedWaitSync2SyncLoss b) s =
      .next { s with res := none, st := .waitSync1, events := .drop (.syncLoss b) :: s.events })

/-- The rows of Header (R73, R74). -/
def Obligations.HeaderRowsComplete : Prop :=
  ∀ (b : Byte) (s : State), s.st = .header →
    (s.idx < 3 → exec (.feedHeaderByte b) s = .next (stored b s)) ∧
    (∀ c i lo : Byte, s.idx = 3 → BufHolds s [c, i, lo] →
      exec (.feedHeaderLast b) s = .next (afterHeader c i lo b s))

/-- The rows of Payload (R75). -/
def Obligations.PayloadRowsComplete : Prop :=
  ∀ (b : Byte) (s : State), s.st = .payload → s.idx < s.cfg.bufCap →
    (s.idx + 1 < 4 + s.len.toNat → exec (.feedPayloadByte b) s = .next (stored b s)) ∧
    (∀ bs : List Byte, s.idx + 1 = 4 + s.len.toNat → bs.length = s.idx → BufHolds s bs →
      exec (.feedPayloadLast b) s = .next (afterPayload bs b s))

/-- The rows of ChecksumA and ChecksumB (R76, R77). -/
def Obligations.ChecksumRowsComplete : Prop :=
  ∀ (b : Byte) (s : State),
    (s.st = .checksumA → b = s.ckA → exec (.feedChecksumAGood b) s = .next { s with res := none, st := .checksumB }) ∧
    (s.st = .checksumA → b ≠ s.ckA → exec (.feedChecksumABad b) s = .next (afterMismatch .a s.ckA b s)) ∧
    (∀ n, s.st = .checksumB → b = s.ckB → s.name = some n → exec (.feedChecksumBGood b) s =
      .next { s with res := some n, st := .waitSync1, events := .emit n :: s.events }) ∧
    (s.st = .checksumB → b ≠ s.ckB → exec (.feedChecksumBBad b) s = .next (afterMismatch .b s.ckB b s))

/-- With R63's default registry each signature row's header is answered with its name code and resolved length, and nothing
else changes. That a signature row, run as an operation, delivers the matcher's answer is the model's choice (log entry 6). -/
def Obligations.SignatureRowsAnswer : Prop :=
  ∀ (w : Half) (s : State), s.cfg.registry = defaultRegistry →
    exec .sigFixV7 s = .next { s with reading := some (.lookup true 0 84) } ∧
    exec .sigFixV8 s = .next { s with reading := some (.lookup true 1 92) } ∧
    exec .sigTimePulseCfg s = .next { s with reading := some (.lookup true 2 32) } ∧
    exec .sigAck s = .next { s with reading := some (.lookup true 3 2) } ∧
    exec .sigNak s = .next { s with reading := some (.lookup true 4 2) } ∧
    exec (.sigSatelliteInfo w) s = .next { s with reading := some (.lookup true 5 w) } ∧
    exec (.sigGnssEnableCfg w) s = .next { s with reading := some (.lookup true 6 w) }

/-- The spec's own inference in R50: in a state of a run, exactly one FEED row's word and condition fit a byte, and it is the one `feedRow` gives. -/
def Obligations.FeedRowsPartition : Prop :=
  ∀ (b : Byte) (s : State), Inv s → ∀ i : Instr, (i.base = .feed b ∧ RowCondition s i) ↔ i = feedRow b s

/-- Every row does what the interface operation of its word does, in every state (R50, R51, R47, R69; for states outside
a FEED row's condition this is log entry 5, for the signature rows log entry 6). -/
def Obligations.RowMeansItsBaseOperation : Prop := ∀ (i : Instr) (s : State), exec i s = exec i.base s

/-! The checksum engine, IDLE, the read ports and LOOKUP -/

/-- R57, R58, R59: sums modulo 256, and nothing else changes. -/
def Obligations.EngineOperations : Prop :=
  ∀ (b : Byte) (s : State),
    exec .ckClear s = .next { s with ceA := 0, ceB := 0 } ∧
    exec (.ckAccum b) s = .next { s with
      ceA := BitVec.ofNat 8 (s.ceA.toNat + b.toNat),
      ceB := BitVec.ofNat 8 (s.ceB.toNat + (s.ceA.toNat + b.toNat) % 256) } ∧
    exec .ckIdle s = .next s

/-- R80: IDLE's word with any don't-care bits, and nothing changes. -/
def Obligations.IdleChangesNothing : Prop :=
  (∀ w : BitVec 10, w.getLsbD 9 = false → w.getLsbD 8 = false → decode (.framer w) = .idle) ∧
  ∀ s : State, exec .idle s = .next s

/-- R81, R82, R60: what the read ports deliver; no register changes. -/
def Obligations.ReadPortsDeliver : Prop :=
  ∀ s : State,
    (∀ n, s.res = some n → exec .readResult s = .next { s with reading := some (.result true n) }) ∧
    (s.res = none → exec .readResult s = .next { s with reading := some (.result false 0) }) ∧
    exec .readErr s = .next { s with reading := some (.errCount s.err) } ∧
    exec .readCk s = .next { s with reading := some (.ckOut s.ceA s.ceB) }

/-- R32 and R83: a written byte is delivered, an unwritten one faults, an address of BUF_CAP or more is refused. -/
def Obligations.ReadBufCases : Prop :=
  ∀ (a : Nat) (s : State),
    (∀ v, a < s.cfg.bufCap → s.buf.read a = some v →
      exec (.readBuf a) s = .next { s with reading := some (.rdData v) }) ∧
    (a < s.cfg.bufCap → s.buf.read a = none → exec (.readBuf a) s = .fault (.readUnwritten a)) ∧
    (s.cfg.bufCap ≤ a → exec (.readBuf a) s = .refused (.bufAddressOutOfRange a))

/-- R69: LOOKUP delivers the matcher's answer; no register changes. -/
def Obligations.LookupPortDelivers : Prop :=
  ∀ (c i : Byte) (w : Half) (s : State),
    (∀ n r, lookup s.cfg.registry c i w = some (n, r) →
      exec (.lookup c i w) s = .next { s with reading := some (.lookup true n r) }) ∧
    (lookup s.cfg.registry c i w = none →
      exec (.lookup c i w) s = .next { s with reading := some (.lookup false 0 0) })

/-- R36: a read changes no register and gives the same value again. `reading`, the value the consumer got, is the model's
own field (log entry 3); that a signature row is a read of the lookup port is the model's choice (log entry 6). -/
def Obligations.ReadsAreIdempotent : Prop :=
  ∀ (i : Instr) (s t : State), IsRead i → exec i s = .next t →
    { t with reading := s.reading } = s ∧ exec i t = .next t

/-- R64, R66: the first matching entry in table order, with its resolved length; none exactly when no entry matches. -/
def Obligations.LookupIsFirstMatch : Prop :=
  ∀ (reg : List Entry) (c i : Byte) (w : Half),
    (∀ n r, lookup reg c i w = some (n, r) ↔
      ∃ e, reg[n]? = some e ∧ Matches e c i w ∧ r = (if e.declLen = 0 then w else e.declLen) ∧
        ∀ m e', m < n → reg[m]? = some e' → ¬ Matches e' c i w) ∧
    (lookup reg c i w = none ↔ ∀ e, e ∈ reg → ¬ Matches e c i w)

/-- The spec's own inference in R65: the resolved length is the wire length, and the name code is an index of the table. -/
def Obligations.LookupResolvesToWireLength : Prop :=
  ∀ (reg : List Entry) (c i : Byte) (w : Half) (n : Nat) (r : Half),
    lookup reg c i w = some (n, r) → r = w ∧ n < reg.length

/-- The spec's own inference in R67: at most one default entry matches a header. -/
def Obligations.DefaultRegistryUnambiguous : Prop :=
  ∀ (c i : Byte) (w : Half) (m n : Nat) (e e' : Entry),
    defaultRegistry[m]? = some e → defaultRegistry[n]? = some e' → Matches e c i w → Matches e' c i w → m = n

/-! The checksum function -/

/-- R54: the loop, as its start and its step on numbers modulo 256. -/
def Obligations.ChecksumRunningSum : Prop :=
  checksum [] = (0, 0) ∧
  ∀ (s : List Byte) (x : Byte),
    (checksum (s ++ [x])).1.toNat = ((checksum s).1.toNat + x.toNat) % 256 ∧
    (checksum (s ++ [x])).2.toNat = ((checksum s).2.toNat + (checksum (s ++ [x])).1.toNat) % 256

/-- The spec's own inference in R56 item 2: the closed form. -/
def Obligations.ChecksumClosedForm : Prop :=
  ∀ s : List Byte,
    (checksum s).1.toNat = (s.map BitVec.toNat).sum % 256 ∧
    (checksum s).2.toNat = (s.zipIdx.map fun p => (s.length - p.2) * p.1.toNat).sum % 256

/-- The spec's own inference in R56 item 4: a change of one byte changes ckA. -/
def Obligations.ChecksumDetectsOneByteChange : Prop :=
  ∀ (s : List Byte) (k : Nat) (x : Byte), k < s.length → s[k]? ≠ some x → (checksum (s.set k x)).1 ≠ (checksum s).1

/-- The spec's own inference in R56 items 3 and 5: leading zeros, and two adjacent different bytes swapped. -/
def Obligations.ChecksumZerosAndSwaps : Prop :=
  (∀ (m : Nat) (s : List Byte), checksum (zeros m ++ s) = checksum s) ∧
  ∀ (p q : List Byte) (x y : Byte), x ≠ y →
    (checksum (p ++ [x, y] ++ q)).1 = (checksum (p ++ [y, x] ++ q)).1 ∧
    (checksum (p ++ [x, y] ++ q)).2 ≠ (checksum (p ++ [y, x] ++ q)).2

/-- The spec's own inference in R56 item 6: opposite changes 256 positions apart are not detected. -/
def Obligations.ChecksumMissesOppositeChanges : Prop :=
  ∀ (p q r : List Byte) (x y d : Byte), q.length = 255 →
    checksum (p ++ [x + d] ++ q ++ [y - d] ++ r) = checksum (p ++ [x] ++ q ++ [y] ++ r)

/-- R58 and R61 with R45: a generator that folds header and payload into a cleared engine emits the frame; only the
engine's accumulators change. -/
def Obligations.GeneratorBuildsFrame : Prop :=
  ∀ (c i : Byte) (p : List Byte) (s : State),
    ∃ t, execAll (generatorOps c i p) s = .next t ∧ generated c i p t = frame c i p ∧
      t = { s with
        ceA := (checksum (headerBytes c i (BitVec.ofNat 16 p.length) ++ p)).1,
        ceB := (checksum (headerBytes c i (BitVec.ofNat 16 p.length) ++ p)).2 }

/-! Rules of the whole machine -/

/-- Who writes what. From the spec (R16 to R20, R36): the parameters are written by no operation, the framer's registers and
the buffer by FEED and RESET only, and the engine's by its own operations and RESET only. The model's choices: the
environment's queue is written by no operation (log entry 1), the consumer's reading by reads only (log entry 3), the event
history by FEED only and so not by RESET (log entry 4), and a signature row is a read (log entry 6). -/
def Obligations.WritersOfEachRegister : Prop :=
  ∀ (i : Instr) (s t : State), exec i s = .next t →
    t.cfg = s.cfg ∧ t.input = s.input ∧
    ((∀ b, i.base ≠ .feed b) → i ≠ .reset →
      t.st = s.st ∧ t.idx = s.idx ∧ t.len = s.len ∧ t.name = s.name ∧ t.ckA = s.ckA ∧ t.ckB = s.ckB ∧
      t.err = s.err ∧ t.res = s.res ∧ t.buf = s.buf) ∧
    (i ≠ .ckClear → (∀ b, i ≠ .ckAccum b) → i ≠ .reset → t.ceA = s.ceA ∧ t.ceB = s.ceB) ∧
    ((∀ b, i.base ≠ .feed b) → t.events = s.events) ∧
    (¬ IsRead i → t.reading = s.reading)

/-- The state after reset meets the invariant of R26. -/
def Obligations.ResetSatisfiesInvariant : Prop := Inv State.reset

/-- R26, the spec's own inference: every step keeps the invariant. -/
def Obligations.StepKeepsInvariant : Prop := ∀ s t : State, Inv s → step s = .next t → Inv t

/-- R70, R92: in a state of a run a FEED always completes in one step. -/
def Obligations.FeedAlwaysCompletes : Prop :=
  ∀ (b : Byte) (s : State), Inv s → ∃ t, exec (.feed b) s = .next t ∧
    (s.st ≠ .checksumB → t.res = none) ∧ (s.st = .checksumB → b ≠ s.ckB → t.res = none)

/-- In a state of a run the only step that stops is a READ_BUF of an unwritten byte or of an address of BUF_CAP or more. -/
def Obligations.StepStopsOnlyOnBadRead : Prop :=
  ∀ s : State, Inv s →
    (∃ t, step s = .next t) ∨
    ∃ a ps, s.input = .readBuf a :: ps ∧
      ((s.cfg.bufCap ≤ a ∧ step s = .refused (.bufAddressOutOfRange a)) ∨
       (a < s.cfg.bufCap ∧ s.buf.read a = none ∧ step s = .fault (.readUnwritten a)))

/-- Soundness of a result (R40, R17): when a FEED emits a name, the buffer holds a whole frame whose header the registry
maps to that name at its own length, and whose two checksum bytes were the ones received. -/
def Obligations.EmittedFrameIsValid : Prop :=
  ∀ (b : Byte) (s t : State) (n : Nat), Inv s → exec (.feed b) s = .next t → t.res = some n →
    s.st = .checksumB ∧
    ∃ c i lo hi p, BufHolds t (c :: i :: lo :: hi :: p) ∧ p.length = lo.toNat + 256 * hi.toNat ∧
      4 + p.length ≤ t.cfg.bufCap ∧
      lookup t.cfg.registry c i (BitVec.ofNat 16 p.length) = some (n, BitVec.ofNat 16 p.length) ∧
      checksum (c :: i :: lo :: hi :: p) = (s.ckA, b)

/-- The spec's own inference in R78: an accepted frame fed in WaitSync1 is emitted at its last byte and not before. -/
def Obligations.AcceptedFrameIsEmitted : Prop :=
  ∀ (c i : Byte) (p : List Byte) (n : Nat) (s : State), s.st = .waitSync1 → Accepted s.cfg c i p n →
    (frame c i p).length = 8 + p.length ∧
    (∃ t, execAll (frameOps c i p) s = .next t ∧ t.res = some n ∧ t.st = .waitSync1 ∧ t.err = s.err ∧ t.cfg = s.cfg ∧
      t.events = .emit n :: s.events ∧ BufHolds t (headerBytes c i (BitVec.ofNat 16 p.length) ++ p)) ∧
    ∀ k, 0 < k → k < 8 + p.length → ∃ u, execAll (feeds ((frame c i p).take k)) s = .next u ∧ u.res = none

/-- The spec's own inference in R79: one changed byte among payload, ckA and ckB: no result, one more error. The state at the
end is left open: after a mismatch at ckA the last byte is fed in WaitSync1 and may be `B5` (R109). -/
def Obligations.CorruptedFrameIsCounted : Prop :=
  ∀ (c i : Byte) (p : List Byte) (n k : Nat) (x : Byte) (s : State), s.st = .waitSync1 → Accepted s.cfg c i p n →
    6 ≤ k → k < 8 + p.length → (frame c i p)[k]? ≠ some x →
    (∃ t, execAll (feeds ((frame c i p).set k x)) s = .next t ∧ t.err = (s.err + 1) % 2 ^ s.cfg.errW) ∧
    ∀ j, 0 < j → j ≤ 8 + p.length →
      ∃ u, execAll (feeds (((frame c i p).set k x).take j)) s = .next u ∧ u.res = none

/-- The spec's own inference in R92: from any state of a run WaitSync1 is reached within BUF_CAP + 3 FEEDs, whatever the
bytes. -/
def Obligations.FramerReturnsToSync : Prop :=
  ∀ (s : State) (bs : List Byte), Inv s → bs.length = s.cfg.bufCap + 3 →
    ∃ k t, k ≤ s.cfg.bufCap + 3 ∧ execAll (feeds (bs.take k)) s = .next t ∧ t.st = .waitSync1

/-- One step of states that differ in unread registers only: the same kind of outcome, and still no difference. -/
def Obligations.StepKeepsIndistinguishable : Prop :=
  ∀ s t : State, Indistinguishable s t → OutcomesAgree Indistinguishable (step s) (step t)

/-- The spec's own inference in R25: in WaitSync1 the values of `idx`, `len`, `name`, `ck_a`, `ck_b` are seen by no
sequence of operations. -/
def Obligations.StaleRegistersUnobservable : Prop :=
  ∀ (s : State) (idx : Nat) (len : Half) (name : Option Nat) (ckA ckB : Byte) (k : Nat), s.st = .waitSync1 →
    OutcomesAgree Indistinguishable (Host.Core.run Sys2Proof.core k s)
      (Host.Core.run Sys2Proof.core k { s with idx := idx, len := len, name := name, ckA := ckA, ckB := ckB })

/-- The spec's own inference in R41: the two FEEDs after a frame leave its bytes in the buffer. -/
def Obligations.TwoFeedsKeepBuffer : Prop :=
  ∀ (x y : Byte) (s : State), s.st = .waitSync1 →
    ∃ t u, execAll (feeds [x]) s = .next t ∧ execAll (feeds [x, y]) s = .next u ∧
      ∀ a, t.buf.read a = s.buf.read a ∧ u.buf.read a = s.buf.read a

/-- R108: in WaitSync1 the frame start of `B5 B5 62` is missed, with one SYNC_LOSS. -/
def Obligations.DoubledSyncByteMissesFrame : Prop :=
  ∀ s : State, s.st = .waitSync1 →
    ∃ t u v, execAll (feeds [0xB5]) s = .next t ∧ t.st = .waitSync2 ∧
      execAll (feeds [0xB5, 0xB5]) s = .next u ∧ u.st = .waitSync1 ∧ u.events = .drop (.syncLoss 0xB5) :: s.events ∧
      execAll (feeds [0xB5, 0xB5, 0x62]) s = .next v ∧ v.st = .waitSync1 ∧ v.events = u.events

/-- The spec's own inference in R109: after a mismatch at ckA, a ckB byte of `B5` loses the frame that follows at once. -/
def Obligations.SyncByteAsCkBLosesNextFrame : Prop :=
  ∀ (a : Byte) (s : State), s.st = .checksumA → a ≠ s.ckA →
    (∃ t, execAll (feeds [a, 0xB5]) s = .next t ∧ t.st = .waitSync2 ∧ t.err = (s.err + 1) % 2 ^ s.cfg.errW) ∧
    ∃ u, execAll (feeds [a, 0xB5, 0xB5, 0x62]) s = .next u ∧ u.st = .waitSync1 ∧ u.res = none ∧
      u.err = (s.err + 1) % 2 ^ s.cfg.errW

/-! Steps and words -/

/-- A step takes the word presented first and runs its operation on the state without it; with none presented it is IDLE
(the queue and its empty case are the model's choice, log entry 1). -/
def Obligations.StepRunsDecodedWord : Prop :=
  ∀ s : State,
    (∀ p ps, s.input = p :: ps → step s = exec (decode p) { s with input := ps }) ∧
    (s.input = [] → step s = exec .idle s)

/-- A step on the word of any row runs that row, with the queue of log entry 1. For a FEED row outside its condition this
rests on log entry 5, for a signature row as a LOOKUP on log entry 6. -/
def Obligations.StepRunsEncodedInstruction : Prop :=
  ∀ (i : Instr) (s : State) (ps : List PortWord),
    step { s with input := encode i :: ps } = exec i { s with input := ps }

/-- Presented operations run in the order they are presented (R37): as many steps as operations. -/
def Obligations.PresentedOperationsRunInOrder : Prop :=
  ∀ (is : List Instr) (s t : State), execAll is s = .next t →
    Host.Core.run Sys2Proof.core is.length (s.presenting is) = .next t

/-- A table word placed by `withFetchWord` is what the next step runs (log entries 7 and 19). -/
def Obligations.FetchWordIsRun : Prop :=
  ∀ (s : State) (nbits w : Nat) (i : Instr), decodeTableWord nbits w = some i →
    step (s.withFetchWord nbits w) = exec i s

/-- The table's numeric codes of `st` (R10), and the state a realisation follows on codes 6 and 7 (R11). -/
def Obligations.FramerStateCodes : Prop :=
  FramerState.code .waitSync1 = 0 ∧ FramerState.code .waitSync2 = 1 ∧ FramerState.code .header = 2 ∧
  FramerState.code .payload = 3 ∧ FramerState.code .checksumA = 4 ∧ FramerState.code .checksumB = 5 ∧
  (∀ x : FramerState, FramerState.ofCode x.code = x) ∧
  FramerState.ofCode 6 = .waitSync1 ∧ FramerState.ofCode 7 = .waitSync1

/-- Decoding the encoding of an interface operation gives it back (R49). The word of a FEED row gives FEED of its byte (R50,
log entry 5), and the header word of a signature row, presented on the lookup port, gives LOOKUP with its class, id and
length (R47, R63, R69, log entries 6 and 7). -/
def Obligations.DecodeEncodeRoundTrip : Prop :=
  (∀ i : Instr, decode (encode i) = i.base) ∧
  ∀ (b : Byte) (c d : Byte) (w : Half) (a : Nat),
    decode (encode .reset) = .reset ∧ decode (encode (.feed b)) = .feed b ∧ decode (encode .idle) = .idle ∧
    decode (encode .ckClear) = .ckClear ∧ decode (encode (.ckAccum b)) = .ckAccum b ∧
    decode (encode .ckIdle) = .ckIdle ∧ decode (encode .readResult) = .readResult ∧
    decode (encode .readErr) = .readErr ∧ decode (encode (.readBuf a)) = .readBuf a ∧
    decode (encode .readCk) = .readCk ∧ decode (encode (.lookup c d w)) = .lookup c d w

/-- R49, R51: every 10-bit word is one operation, by the match and mask of its row. -/
def Obligations.ControlWordsDecode : Prop :=
  ∀ w : BitVec 10,
    (w &&& 0x200 = 0x200 → decode (.framer w) = .reset ∧ decode (.checksum w) = .ckClear) ∧
    (w &&& 0x300 = 0x100 → decode (.framer w) = .feed (BitVec.ofNat 8 w.toNat) ∧
      decode (.checksum w) = .ckAccum (BitVec.ofNat 8 w.toNat)) ∧
    (w &&& 0x300 = 0x000 → decode (.framer w) = .idle ∧ decode (.checksum w) = .ckIdle)

/-- R63, R47 (the model's reading of a table number, log entry 7): a signature row's header word decodes to the row, a header word decodes to a row only if it is that row's
word, and the words that decode to no row are those the default registry does not know. -/
def Obligations.SignatureWordsDecode : Prop :=
  (∀ (i : Instr) (c d : Byte) (w : Half), encode i = .lookup c d w → i ≠ i.base →
    decodeSignature (sigWord c d w) = .ok i) ∧
  (∀ (h : BitVec 32) (i : Instr), decodeSignature h = .ok i →
    i ≠ i.base ∧ encode i = .lookup (sigClass h) (sigId h) (sigLen h)) ∧
  ∀ (c d : Byte) (w : Half),
    decodeSignature (sigWord c d w) = .error .unknownSignature ↔ lookup defaultRegistry c d w = none

/-- Words written out from R49 and R63 (program P1, the engine vectors and the lookup vectors of 95_test_vectors.md). The table
number `0x105` is CK_ACCUM 05's as well as FEED 05's: reading it as FEED, and a 32-bit number as a header word, is the
model's choice (log entry 7). -/
def Obligations.SampleWordsDecode : Prop :=
  decode (.framer 0x200) = .reset ∧ decode (.framer 0x1B5) = .feed 0xB5 ∧ decode (.framer 0x162) = .feed 0x62 ∧
  decode (.framer 0x000) = .idle ∧ decode (.checksum 0x307) = .ckClear ∧ decode (.checksum 0x107) = .ckAccum 0x07 ∧
  decodeTableWord 16 0x105 = some (.feed 0x05) ∧ decodeTableWord 32 0x00020105 = some .sigAck ∧
  decodeTableWord 32 0x012C3501 = some (.sigSatelliteInfo 300) ∧ decodeTableWord 32 0x00020705 = none

/-- R49, R94, less RESET (log entry 13): a framer word other than RESET and a checksum word are independent; their order does not matter. -/
def Obligations.ClockedWordsCommute : Prop :=
  ∀ (fw cw : BitVec 10) (s : State), fw.getLsbD 9 = false →
    clockedCycle fw cw s = execAll [decodeChecksum cw, decodeFramer fw] s

/-- The model's choice (log entry 13): RESET and a CK_ACCUM of one cycle are run framer word first, and the other order
would give another state whenever the byte is not 0. -/
def Obligations.ResetAndAccumDoNotCommute : Prop :=
  ∀ (b : Byte) (s : State),
    clockedCycle 0x200 (controlWord false true b) s = .next { s.applyReset with ceA := b, ceB := b } ∧
    execAll [.ckAccum b, .reset] s = .next s.applyReset ∧
    (b ≠ 0 → clockedCycle 0x200 (controlWord false true b) s ≠ execAll [.ckAccum b, .reset] s)
end

