-- ==== Sys2Proof/Laws/Decode.lean ====
section
/-! SUPPORT. The fields of the words the encoder writes. -/

namespace Sys2Proof

theorem controlWord_high : ∀ (x y : Bool) (b : Byte), (controlWord x y b).getLsbD 9 = x := by decide

theorem controlWord_low : ∀ (x y : Bool) (b : Byte), (controlWord x y b).getLsbD 8 = y := by decide

theorem controlWord_byte : ∀ (x y : Bool) (b : Byte), (controlWord x y b).extractLsb' 0 8 = b := by decide

theorem decodeFramer_controlWord (b : Byte) :
    decodeFramer (controlWord true false b) = .reset ∧ decodeFramer (controlWord false true b) = .feed b ∧
      decodeFramer (controlWord false false b) = .idle := by
  simp only [decodeFramer, controlWord_high, controlWord_low, controlWord_byte]
  simp

theorem decodeChecksum_controlWord (b : Byte) :
    decodeChecksum (controlWord true false b) = .ckClear ∧ decodeChecksum (controlWord false true b) = .ckAccum b ∧
      decodeChecksum (controlWord false false b) = .ckIdle := by
  simp only [decodeChecksum, controlWord_high, controlWord_low, controlWord_byte]
  simp

/-- The bits of a header word: class lowest, then id, then length (R47). -/
theorem sigWord_getLsbD (c i : Byte) (w : Half) (k : Nat) : (sigWord c i w).getLsbD k =
    if k < 8 then c.getLsbD k else if k - 8 < 8 then i.getLsbD (k - 8) else w.getLsbD (k - 8 - 8) := by
  show BitVec.getLsbD (w ++ i ++ c : BitVec (16 + 8 + 8)) k = _
  simp only [BitVec.getLsbD_append]

theorem sigWord_fields (c i : Byte) (w : Half) :
    sigClass (sigWord c i w) = c ∧ sigId (sigWord c i w) = i ∧ sigLen (sigWord c i w) = w := by
  refine ⟨?_, ?_, ?_⟩ <;> apply BitVec.eq_of_getLsbD_eq <;> intro k hk <;>
    simp only [sigClass, sigId, sigLen, BitVec.getLsbD_extractLsb', sigWord_getLsbD, hk, decide_true, Bool.true_and]
  · simp [hk]
  · have h1 : ¬ 8 + k < 8 := by omega
    have h2 : 8 + k - 8 = k := by omega
    simp only [h1, h2, hk, if_true, if_false]
  · have h1 : ¬ 16 + k < 8 := by omega
    have h2 : ¬ 16 + k - 8 < 8 := by omega
    have h3 : 16 + k - 8 - 8 = k := by omega
    simp only [h1, h2, h3, if_false]

theorem sigMask_getLsbD (k : Nat) (h : k < 32) : (0x0000FFFF : BitVec 32).getLsbD k = decide (k < 16) := by
  have key : ∀ j : Fin 32, (0x0000FFFF : BitVec 32).getLsbD j.val = decide (j.val < 16) := by decide
  exact key ⟨k, h⟩

/-- The mask of a variable signature row keeps class and id and clears the length. -/
theorem sigWord_masked (c i : Byte) (w : Half) : sigWord c i w &&& 0x0000FFFF = sigWord c i 0 := by
  apply BitVec.eq_of_getLsbD_eq
  intro k hk
  rw [BitVec.getLsbD_and, sigMask_getLsbD k hk, sigWord_getLsbD, sigWord_getLsbD]
  by_cases h1 : k < 8
  · have h2 : k < 16 := by omega
    simp [h1, h2]
  · by_cases h2 : k < 16
    · have h3 : k - 8 < 8 := by omega
      simp [h1, h2, h3]
    · have h3 : ¬ k - 8 < 8 := by omega
      simp [h1, h2, h3]

end Sys2Proof
end

