-- ==== Sys2Proof/Laws/Memory.lean ====
section
/-! SUPPORT. The receive buffer: read after write, and that a write keeps the canonical form and the bound. -/

namespace Sys2Proof.Machine

@[simp] theorem Memory.read_nil (a : Nat) : Memory.read [] a = none := rfl

@[simp] theorem Memory.wf_nil : Memory.wf [] = true := rfl

@[simp] theorem Memory.within_nil (cap : Nat) : Memory.within cap [] = true := rfl

@[simp] theorem Memory.read_write_same (m : Memory) (a : Nat) (b : Byte) : (m.write a b).read a = some b := by
  induction m with
  | nil => simp [Memory.write, Memory.read]
  | cons c m ih =>
    obtain ⟨k, v⟩ := c
    simp only [Memory.write]
    split
    · simp [Memory.read]
    · split
      · simp [Memory.read]
      · rename_i h1 h2
        simp [Memory.read, Ne.symm h2, ih]

theorem Memory.read_write_other (m : Memory) (a a' : Nat) (b : Byte) (h : a' ≠ a) :
    (m.write a b).read a' = m.read a' := by
  induction m with
  | nil => simp [Memory.write, Memory.read, h.symm]
  | cons c m ih =>
    obtain ⟨k, v⟩ := c
    simp only [Memory.write]
    split
    · simp [Memory.read, h.symm]
    · split
      · rename_i h1 h2
        subst h2
        simp [Memory.read, h.symm]
      · simp [Memory.read, ih]

/-- A write puts its offset first, or leaves the first offset where it is. -/
theorem Memory.write_head (m : Memory) (a : Nat) (b : Byte) :
    ∃ k v m', m.write a b = (k, v) :: m' ∧ (k = a ∨ ∃ w m'', m = (k, w) :: m'') := by
  cases m with
  | nil => exact ⟨a, b, [], rfl, .inl rfl⟩
  | cons c m =>
    obtain ⟨k, v⟩ := c
    simp only [Memory.write]
    split
    · exact ⟨_, _, _, rfl, .inl rfl⟩
    · split
      · exact ⟨_, _, _, rfl, .inl rfl⟩
      · exact ⟨_, _, _, rfl, .inr ⟨_, _, rfl⟩⟩

theorem Memory.wf_tail (k : Nat) (v : Byte) (m : Memory) (h : Memory.wf ((k, v) :: m) = true) : m.wf = true := by
  cases m with
  | nil => rfl
  | cons c m =>
    simp only [Memory.wf, Bool.and_eq_true] at h
    exact h.2

theorem Memory.wf_write (m : Memory) (a : Nat) (b : Byte) (h : m.wf = true) : (m.write a b).wf = true := by
  induction m with
  | nil => rfl
  | cons c m ih =>
    obtain ⟨k, v⟩ := c
    have hm := Memory.wf_tail k v m h
    simp only [Memory.write]
    split
    · rename_i hk
      simp only [Memory.wf, Bool.and_eq_true, decide_eq_true_eq]
      exact ⟨hk, h⟩
    · split
      · rename_i hk
        subst hk
        cases m with
        | nil => rfl
        | cons d m =>
          simp only [Memory.wf, Bool.and_eq_true] at h ⊢
          exact h
      · rename_i h1 h2
        obtain ⟨k', v', m', hw, hc⟩ := Memory.write_head m a b
        have ih' := ih hm
        rw [hw] at ih' ⊢
        simp only [Memory.wf, Bool.and_eq_true, decide_eq_true_eq]
        refine ⟨?_, ih'⟩
        rcases hc with rfl | ⟨w, m'', rfl⟩
        · omega
        · simp only [Memory.wf, Bool.and_eq_true, decide_eq_true_eq] at h
          exact h.1

theorem Memory.within_write (cap : Nat) (m : Memory) (a : Nat) (b : Byte) (ha : a < cap)
    (h : m.within cap = true) : (m.write a b).within cap = true := by
  induction m with
  | nil => simp [Memory.write, Memory.within, ha]
  | cons c m ih =>
    obtain ⟨k, v⟩ := c
    simp only [Memory.within, List.all_cons, Bool.and_eq_true, decide_eq_true_eq] at h ih
    simp only [Memory.write]
    split
    · simp only [Memory.within, List.all_cons, Bool.and_eq_true, decide_eq_true_eq]
      exact ⟨ha, h⟩
    · split
      · simp only [Memory.within, List.all_cons, Bool.and_eq_true, decide_eq_true_eq]
        exact ⟨ha, h.2⟩
      · simp only [Memory.within, List.all_cons, Bool.and_eq_true, decide_eq_true_eq]
        exact ⟨h.1, ih h.2⟩

end Sys2Proof.Machine
end

