-- ==== Sys2Proof/Laws/State.lean ====
section
/-! SUPPORT. One lemma per field per named update of State, so that no later proof unfolds an update. -/

namespace Sys2Proof.Machine

/-! `State.clearResult` -/

@[simp] theorem State.clearResult_st (s : State) : s.clearResult.st = s.st := rfl
@[simp] theorem State.clearResult_idx (s : State) : s.clearResult.idx = s.idx := rfl
@[simp] theorem State.clearResult_len (s : State) : s.clearResult.len = s.len := rfl
@[simp] theorem State.clearResult_name (s : State) : s.clearResult.name = s.name := rfl
@[simp] theorem State.clearResult_ckA (s : State) : s.clearResult.ckA = s.ckA := rfl
@[simp] theorem State.clearResult_ckB (s : State) : s.clearResult.ckB = s.ckB := rfl
@[simp] theorem State.clearResult_err (s : State) : s.clearResult.err = s.err := rfl
@[simp] theorem State.clearResult_res (s : State) : s.clearResult.res = none := rfl
@[simp] theorem State.clearResult_buf (s : State) : s.clearResult.buf = s.buf := rfl
@[simp] theorem State.clearResult_ceA (s : State) : s.clearResult.ceA = s.ceA := rfl
@[simp] theorem State.clearResult_ceB (s : State) : s.clearResult.ceB = s.ceB := rfl
@[simp] theorem State.clearResult_cfg (s : State) : s.clearResult.cfg = s.cfg := rfl
@[simp] theorem State.clearResult_events (s : State) : s.clearResult.events = s.events := rfl
@[simp] theorem State.clearResult_reading (s : State) : s.clearResult.reading = s.reading := rfl
@[simp] theorem State.clearResult_input (s : State) : s.clearResult.input = s.input := rfl

/-! `State.drop` -/

@[simp] theorem State.drop_st (s : State) (d : Drop) : (s.drop d).st = .waitSync1 := rfl
@[simp] theorem State.drop_idx (s : State) (d : Drop) : (s.drop d).idx = s.idx := rfl
@[simp] theorem State.drop_len (s : State) (d : Drop) : (s.drop d).len = s.len := rfl
@[simp] theorem State.drop_name (s : State) (d : Drop) : (s.drop d).name = s.name := rfl
@[simp] theorem State.drop_ckA (s : State) (d : Drop) : (s.drop d).ckA = s.ckA := rfl
@[simp] theorem State.drop_ckB (s : State) (d : Drop) : (s.drop d).ckB = s.ckB := rfl
@[simp] theorem State.drop_err (s : State) (d : Drop) : (s.drop d).err = s.err := rfl
@[simp] theorem State.drop_res (s : State) (d : Drop) : (s.drop d).res = s.res := rfl
@[simp] theorem State.drop_buf (s : State) (d : Drop) : (s.drop d).buf = s.buf := rfl
@[simp] theorem State.drop_ceA (s : State) (d : Drop) : (s.drop d).ceA = s.ceA := rfl
@[simp] theorem State.drop_ceB (s : State) (d : Drop) : (s.drop d).ceB = s.ceB := rfl
@[simp] theorem State.drop_cfg (s : State) (d : Drop) : (s.drop d).cfg = s.cfg := rfl
@[simp] theorem State.drop_events (s : State) (d : Drop) : (s.drop d).events = .drop d :: s.events := rfl
@[simp] theorem State.drop_reading (s : State) (d : Drop) : (s.drop d).reading = s.reading := rfl
@[simp] theorem State.drop_input (s : State) (d : Drop) : (s.drop d).input = s.input := rfl

/-! `State.countError` -/

@[simp] theorem State.countError_st (s : State) : s.countError.st = s.st := rfl
@[simp] theorem State.countError_idx (s : State) : s.countError.idx = s.idx := rfl
@[simp] theorem State.countError_len (s : State) : s.countError.len = s.len := rfl
@[simp] theorem State.countError_name (s : State) : s.countError.name = s.name := rfl
@[simp] theorem State.countError_ckA (s : State) : s.countError.ckA = s.ckA := rfl
@[simp] theorem State.countError_ckB (s : State) : s.countError.ckB = s.ckB := rfl
@[simp] theorem State.countError_err (s : State) : s.countError.err = (s.err + 1) % 2 ^ s.cfg.errW := rfl
@[simp] theorem State.countError_res (s : State) : s.countError.res = s.res := rfl
@[simp] theorem State.countError_buf (s : State) : s.countError.buf = s.buf := rfl
@[simp] theorem State.countError_ceA (s : State) : s.countError.ceA = s.ceA := rfl
@[simp] theorem State.countError_ceB (s : State) : s.countError.ceB = s.ceB := rfl
@[simp] theorem State.countError_cfg (s : State) : s.countError.cfg = s.cfg := rfl
@[simp] theorem State.countError_events (s : State) : s.countError.events = s.events := rfl
@[simp] theorem State.countError_reading (s : State) : s.countError.reading = s.reading := rfl
@[simp] theorem State.countError_input (s : State) : s.countError.input = s.input := rfl

/-! `State.mismatch` -/

@[simp] theorem State.mismatch_st (s : State) (k : CkByte) (x y : Byte) : (s.mismatch k x y).st = .waitSync1 := rfl
@[simp] theorem State.mismatch_idx (s : State) (k : CkByte) (x y : Byte) : (s.mismatch k x y).idx = s.idx := rfl
@[simp] theorem State.mismatch_len (s : State) (k : CkByte) (x y : Byte) : (s.mismatch k x y).len = s.len := rfl
@[simp] theorem State.mismatch_name (s : State) (k : CkByte) (x y : Byte) : (s.mismatch k x y).name = s.name := rfl
@[simp] theorem State.mismatch_ckA (s : State) (k : CkByte) (x y : Byte) : (s.mismatch k x y).ckA = s.ckA := rfl
@[simp] theorem State.mismatch_ckB (s : State) (k : CkByte) (x y : Byte) : (s.mismatch k x y).ckB = s.ckB := rfl
@[simp] theorem State.mismatch_err (s : State) (k : CkByte) (x y : Byte) : (s.mismatch k x y).err = (s.err + 1) % 2 ^ s.cfg.errW := rfl
@[simp] theorem State.mismatch_res (s : State) (k : CkByte) (x y : Byte) : (s.mismatch k x y).res = s.res := rfl
@[simp] theorem State.mismatch_buf (s : State) (k : CkByte) (x y : Byte) : (s.mismatch k x y).buf = s.buf := rfl
@[simp] theorem State.mismatch_ceA (s : State) (k : CkByte) (x y : Byte) : (s.mismatch k x y).ceA = s.ceA := rfl
@[simp] theorem State.mismatch_ceB (s : State) (k : CkByte) (x y : Byte) : (s.mismatch k x y).ceB = s.ceB := rfl
@[simp] theorem State.mismatch_cfg (s : State) (k : CkByte) (x y : Byte) : (s.mismatch k x y).cfg = s.cfg := rfl
@[simp] theorem State.mismatch_events (s : State) (k : CkByte) (x y : Byte) : (s.mismatch k x y).events = .drop (.checksumMismatch k x y) :: s.events := rfl
@[simp] theorem State.mismatch_reading (s : State) (k : CkByte) (x y : Byte) : (s.mismatch k x y).reading = s.reading := rfl
@[simp] theorem State.mismatch_input (s : State) (k : CkByte) (x y : Byte) : (s.mismatch k x y).input = s.input := rfl

/-! `State.emitName` -/

@[simp] theorem State.emitName_st (s : State) : s.emitName.st = .waitSync1 := rfl
@[simp] theorem State.emitName_idx (s : State) : s.emitName.idx = s.idx := rfl
@[simp] theorem State.emitName_len (s : State) : s.emitName.len = s.len := rfl
@[simp] theorem State.emitName_name (s : State) : s.emitName.name = s.name := rfl
@[simp] theorem State.emitName_ckA (s : State) : s.emitName.ckA = s.ckA := rfl
@[simp] theorem State.emitName_ckB (s : State) : s.emitName.ckB = s.ckB := rfl
@[simp] theorem State.emitName_err (s : State) : s.emitName.err = s.err := rfl
@[simp] theorem State.emitName_res (s : State) : s.emitName.res = s.name := rfl
@[simp] theorem State.emitName_buf (s : State) : s.emitName.buf = s.buf := rfl
@[simp] theorem State.emitName_ceA (s : State) : s.emitName.ceA = s.ceA := rfl
@[simp] theorem State.emitName_ceB (s : State) : s.emitName.ceB = s.ceB := rfl
@[simp] theorem State.emitName_cfg (s : State) : s.emitName.cfg = s.cfg := rfl
@[simp] theorem State.emitName_reading (s : State) : s.emitName.reading = s.reading := rfl
@[simp] theorem State.emitName_input (s : State) : s.emitName.input = s.input := rfl

/-! `State.deliver` -/

@[simp] theorem State.deliver_st (s : State) (r : Reading) : (s.deliver r).st = s.st := rfl
@[simp] theorem State.deliver_idx (s : State) (r : Reading) : (s.deliver r).idx = s.idx := rfl
@[simp] theorem State.deliver_len (s : State) (r : Reading) : (s.deliver r).len = s.len := rfl
@[simp] theorem State.deliver_name (s : State) (r : Reading) : (s.deliver r).name = s.name := rfl
@[simp] theorem State.deliver_ckA (s : State) (r : Reading) : (s.deliver r).ckA = s.ckA := rfl
@[simp] theorem State.deliver_ckB (s : State) (r : Reading) : (s.deliver r).ckB = s.ckB := rfl
@[simp] theorem State.deliver_err (s : State) (r : Reading) : (s.deliver r).err = s.err := rfl
@[simp] theorem State.deliver_res (s : State) (r : Reading) : (s.deliver r).res = s.res := rfl
@[simp] theorem State.deliver_buf (s : State) (r : Reading) : (s.deliver r).buf = s.buf := rfl
@[simp] theorem State.deliver_ceA (s : State) (r : Reading) : (s.deliver r).ceA = s.ceA := rfl
@[simp] theorem State.deliver_ceB (s : State) (r : Reading) : (s.deliver r).ceB = s.ceB := rfl
@[simp] theorem State.deliver_cfg (s : State) (r : Reading) : (s.deliver r).cfg = s.cfg := rfl
@[simp] theorem State.deliver_events (s : State) (r : Reading) : (s.deliver r).events = s.events := rfl
@[simp] theorem State.deliver_reading (s : State) (r : Reading) : (s.deliver r).reading = some r := rfl
@[simp] theorem State.deliver_input (s : State) (r : Reading) : (s.deliver r).input = s.input := rfl

/-! `State.applyReset` -/

@[simp] theorem State.applyReset_st (s : State) : s.applyReset.st = .waitSync1 := rfl
@[simp] theorem State.applyReset_idx (s : State) : s.applyReset.idx = 0 := rfl
@[simp] theorem State.applyReset_len (s : State) : s.applyReset.len = 0 := rfl
@[simp] theorem State.applyReset_name (s : State) : s.applyReset.name = none := rfl
@[simp] theorem State.applyReset_ckA (s : State) : s.applyReset.ckA = 0 := rfl
@[simp] theorem State.applyReset_ckB (s : State) : s.applyReset.ckB = 0 := rfl
@[simp] theorem State.applyReset_err (s : State) : s.applyReset.err = 0 := rfl
@[simp] theorem State.applyReset_res (s : State) : s.applyReset.res = none := rfl
@[simp] theorem State.applyReset_buf (s : State) : s.applyReset.buf = [] := rfl
@[simp] theorem State.applyReset_ceA (s : State) : s.applyReset.ceA = 0 := rfl
@[simp] theorem State.applyReset_ceB (s : State) : s.applyReset.ceB = 0 := rfl
@[simp] theorem State.applyReset_cfg (s : State) : s.applyReset.cfg = s.cfg := rfl
@[simp] theorem State.applyReset_events (s : State) : s.applyReset.events = s.events := rfl
@[simp] theorem State.applyReset_reading (s : State) : s.applyReset.reading = s.reading := rfl
@[simp] theorem State.applyReset_input (s : State) : s.applyReset.input = s.input := rfl

@[simp] theorem State.emitName_events_some (s : State) (n : Nat) (h : s.name = some n) :
    s.emitName.events = .emit n :: s.events := by simp [State.emitName, h]

@[simp] theorem State.emitName_events_none (s : State) (h : s.name = none) : s.emitName.events = s.events := by
  simp [State.emitName, h]

end Sys2Proof.Machine
end

