-- ==== Sys2Proof/Laws/Ops.lean ====
section
/-! SUPPORT. What each shared operation can do, once per operation. -/

namespace Sys2Proof.Machine

/-! Sequencing -/

@[simp] theorem andThen_next {α β : Type} (a : α) (k : α → Host.Outcome β Fault Refusal) :
    andThen (.next a) k = k a := rfl

@[simp] theorem andThen_fault {α β : Type} (f : Fault) (k : α → Host.Outcome β Fault Refusal) :
    andThen (.fault f) k = .fault f := rfl

@[simp] theorem andThen_refused {α β : Type} (r : Refusal) (k : α → Host.Outcome β Fault Refusal) :
    andThen (.refused r) k = .refused r := rfl

/-- A sequence answers next exactly when both parts do. -/
theorem andThen_eq_next {α β : Type} {o : Host.Outcome α Fault Refusal} {k : α → Host.Outcome β Fault Refusal} {b : β} :
    andThen o k = .next b ↔ ∃ a, o = .next a ∧ k a = .next b := by
  cases o <;> simp [andThen]

/-! The receive buffer -/

theorem bufWrite_of_lt {i : Nat} {v : Byte} {s : State} (h : i < s.cfg.bufCap) :
    bufWrite i v s = .next { s with buf := s.buf.write i v } := by simp [bufWrite, h]

theorem bufWrite_of_ge {i : Nat} {v : Byte} {s : State} (h : s.cfg.bufCap ≤ i) :
    bufWrite i v s = .fault (.writeOutsideBuffer i) := by
  have : ¬ i < s.cfg.bufCap := by omega
  simp [bufWrite, this]

theorem bufWrite_eq_next {i : Nat} {v : Byte} {s t : State} :
    bufWrite i v s = .next t ↔ i < s.cfg.bufCap ∧ t = { s with buf := s.buf.write i v } := by
  unfold bufWrite
  split
  · rename_i h
    simp [h, eq_comm]
  · rename_i h
    simp [h]

theorem bufRead_of_written {i : Nat} {v : Byte} {s : State} (h : i < s.cfg.bufCap) (hv : s.buf.read i = some v) :
    bufRead i s = .next v := by simp [bufRead, h, hv]

theorem bufRead_of_unwritten {i : Nat} {s : State} (h : i < s.cfg.bufCap) (hv : s.buf.read i = none) :
    bufRead i s = .fault (.readUnwritten i) := by simp [bufRead, h, hv]

theorem bufRead_of_ge {i : Nat} {s : State} (h : s.cfg.bufCap ≤ i) :
    bufRead i s = .refused (.bufAddressOutOfRange i) := by
  have : ¬ i < s.cfg.bufCap := by omega
  simp [bufRead, this]

theorem bufRead_eq_next {i : Nat} {v : Byte} {s : State} :
    bufRead i s = .next v ↔ i < s.cfg.bufCap ∧ s.buf.read i = some v := by
  unfold bufRead
  split
  · rename_i h
    split <;> simp_all
  · rename_i h
    simp [h]

/-- A read depends on the buffer and the capacity only. -/
theorem bufRead_congr {i : Nat} {s t : State} (hb : s.buf = t.buf) (hc : s.cfg = t.cfg) : bufRead i s = bufRead i t := by
  simp [bufRead, hb, hc]

theorem bufReadRange_congr {k : Nat} : ∀ {i : Nat} {s t : State}, s.buf = t.buf → s.cfg = t.cfg →
    bufReadRange i k s = bufReadRange i k t := by
  induction k with
  | zero => intros; rfl
  | succ k ih =>
    intro i s t hb hc
    simp only [bufReadRange, bufRead_congr hb hc, ih hb hc]

/-- The bytes read from a range are the stored ones, and all of them are inside the buffer. -/
theorem bufReadRange_eq_next {k : Nat} : ∀ {i : Nat} {s : State} {bs : List Byte},
    bufReadRange i k s = .next bs ↔
      bs.length = k ∧ ∀ j, j < k → i + j < s.cfg.bufCap ∧ s.buf.read (i + j) = bs[j]? := by
  induction k with
  | zero =>
    intro i s bs
    cases bs <;> simp [bufReadRange]
  | succ k ih =>
    intro i s bs
    simp only [bufReadRange, andThen_eq_next, bufRead_eq_next, ih]
    constructor
    · rintro ⟨b, ⟨hb, hr⟩, cs, ⟨hl, hj⟩, hn⟩
      cases hn
      refine ⟨by simp [hl], ?_⟩
      intro j hjk
      cases j with
      | zero => simpa using ⟨hb, hr⟩
      | succ j =>
        have := hj j (by omega)
        simpa [Nat.add_assoc, Nat.add_comm 1 j] using this
    · rintro ⟨hl, hj⟩
      cases bs with
      | nil => simp at hl
      | cons b cs =>
        refine ⟨b, by simpa using hj 0 (by omega), cs, ⟨by simpa using hl, ?_⟩, rfl⟩
        intro j hjk
        have := hj (j + 1) (by omega)
        simpa [Nat.add_assoc, Nat.add_comm 1 j] using this

/-- Reading the whole of a held prefix gives it back. -/
theorem bufReadRange_of_holds {s : State} {bs : List Byte} (h : BufHolds s bs) (hc : bs.length ≤ s.cfg.bufCap) :
    bufReadRange 0 bs.length s = .next bs := by
  rw [bufReadRange_eq_next]
  refine ⟨rfl, fun j hj => ⟨by omega, ?_⟩⟩
  simpa using h j hj

/-- Storing the next byte of a held prefix extends it. -/
theorem bufHolds_write {s : State} {bs : List Byte} (b : Byte) (h : BufHolds s bs) :
    BufHolds { s with buf := s.buf.write bs.length b } (bs ++ [b]) := by
  intro k hk
  simp only [List.length_append, List.length_cons, List.length_nil] at hk
  by_cases he : k = bs.length
  · subst he
    simp
  · have hlt : k < bs.length := by omega
    show (s.buf.write bs.length b).read k = _
    rw [Memory.read_write_other _ _ _ _ he, List.getElem?_append_left hlt]
    exact h k hlt

/-- What a held prefix is depends on the buffer only. -/
theorem bufHolds_congr {s t : State} {bs : List Byte} (hb : s.buf = t.buf) : BufHolds s bs ↔ BufHolds t bs := by
  simp [BufHolds, hb]

/-! The checksum -/

@[simp] theorem checksum_nil : checksum [] = (0, 0) := rfl

theorem checksum_append (s u : List Byte) : checksum (s ++ u) = u.foldl checksumStep (checksum s) := by
  simp [checksum, List.foldl_append]

/-! The fetch -/

theorem fetch_nil {s : State} (h : s.input = []) : fetch s = (idleWord, s) := by simp [fetch, h]

theorem fetch_cons {s : State} {p : PortWord} {ps : List PortWord} (h : s.input = p :: ps) :
    fetch s = (p, { s with input := ps }) := by simp [fetch, h]

/-! Operand assembly -/

theorem wireLength_toNat (lo hi : Byte) : (wireLength lo hi).toNat = lo.toNat + 256 * hi.toNat := by
  have h1 := lo.isLt
  have h2 := hi.isLt
  have h3 : BitVec.toNat (256 : Half) = 256 := rfl
  simp only [wireLength, BitVec.toNat_add, BitVec.toNat_mul, BitVec.toNat_setWidth, h3]
  omega

theorem wireLength_bytes (w : Half) : wireLength (lowByte w) (highByte w) = w := by
  apply BitVec.eq_of_toNat_eq
  rw [wireLength_toNat]
  have := w.isLt
  simp only [lowByte, highByte, BitVec.extractLsb'_toNat, Nat.shiftRight_eq_div_pow]
  omega

theorem readHeader_eq_next {s : State} {h : Byte × Byte × Half} :
    readHeader s = .next h ↔ ∃ c i lo hi, bufRead 0 s = .next c ∧ bufRead 1 s = .next i ∧ bufRead 2 s = .next lo ∧
      bufRead 3 s = .next hi ∧ h = (c, i, wireLength lo hi) := by
  simp only [readHeader, andThen_eq_next]
  constructor
  · rintro ⟨c, hc, i, hi, lo, hlo, x, hx, hn⟩
    cases hn
    exact ⟨c, i, lo, x, hc, hi, hlo, hx, rfl⟩
  · rintro ⟨c, i, lo, x, hc, hi, hlo, hx, rfl⟩
    exact ⟨c, hc, i, hi, lo, hlo, x, hx, rfl⟩

/-! The matcher -/

theorem entryMatches_iff (e : Entry) (c i : Byte) (w : Half) :
    entryMatches e c i w = true ↔ e.cls = c ∧ e.id = i ∧ (e.declLen = w ∨ e.declLen = 0) := by
  simp [entryMatches, and_assoc]

@[simp] theorem lookupFrom_nil (n : Nat) (c i : Byte) (w : Half) : lookupFrom n [] c i w = none := rfl

theorem lookupFrom_cons (n : Nat) (e : Entry) (es : List Entry) (c i : Byte) (w : Half) :
    lookupFrom n (e :: es) c i w =
      if entryMatches e c i w then some (n, resolvedLength e w) else lookupFrom (n + 1) es c i w := rfl

end Sys2Proof.Machine
end

