-- ==== Sys2Proof/Laws/Framer.lean ====
section
/-! SUPPORT. What the parts of FEED can do. -/

namespace Sys2Proof.Machine

theorem feed_waitSync1 {s : State} (b : Byte) (h : s.st = .waitSync1) : feed b s = feedWaitSync1 b s.clearResult := by
  simp [feed, h]

theorem feed_waitSync2 {s : State} (b : Byte) (h : s.st = .waitSync2) : feed b s = feedWaitSync2 b s.clearResult := by
  simp [feed, h]

theorem feed_header {s : State} (b : Byte) (h : s.st = .header) : feed b s = feedHeader b s.clearResult := by
  simp [feed, h]

theorem feed_payload {s : State} (b : Byte) (h : s.st = .payload) : feed b s = feedPayload b s.clearResult := by
  simp [feed, h]

theorem feed_checksumA {s : State} (b : Byte) (h : s.st = .checksumA) : feed b s = feedChecksumA b s.clearResult := by
  simp [feed, h]

theorem feed_checksumB {s : State} (b : Byte) (h : s.st = .checksumB) : feed b s = feedChecksumB b s.clearResult := by
  simp [feed, h]

/-- `storeByte` answers next exactly when the offset exists, and then it has stored the byte and counted it. -/
theorem storeByte_eq_next {b : Byte} {s t : State} :
    storeByte b s = .next t ↔
      s.idx < s.cfg.bufCap ∧ t = { s with buf := s.buf.write s.idx b, idx := s.idx + 1 } := by
  simp only [storeByte, andThen_eq_next, bufWrite_eq_next]
  constructor
  · rintro ⟨a, ⟨h, rfl⟩, hn⟩
    cases hn
    exact ⟨h, rfl⟩
  · rintro ⟨h, rfl⟩
    exact ⟨_, ⟨h, rfl⟩, rfl⟩

theorem storeByte_of_lt {b : Byte} {s : State} (h : s.idx < s.cfg.bufCap) :
    storeByte b s = .next { s with buf := s.buf.write s.idx b, idx := s.idx + 1 } :=
  storeByte_eq_next.mpr ⟨h, rfl⟩

/-- `enterChecksum` answers next exactly when the frame's bytes can be read, and then it holds their checksum. -/
theorem enterChecksum_eq_next {s t : State} :
    enterChecksum s = .next t ↔ ∃ bytes, bufReadRange 0 (4 + s.len.toNat) s = .next bytes ∧
      t = { s with ckA := (checksum bytes).1, ckB := (checksum bytes).2, st := .checksumA } := by
  simp only [enterChecksum, andThen_eq_next]
  constructor
  · rintro ⟨bytes, h, hn⟩
    cases hn
    exact ⟨bytes, h, rfl⟩
  · rintro ⟨bytes, h, rfl⟩
    exact ⟨bytes, h, rfl⟩

/-- The three ways a header with a match goes on. -/
theorem admitHeader_eq_next {n : Nat} {rlen : Half} {s t : State} :
    admitHeader n rlen s = .next t ↔
      (s.cfg.bufCap < rlen.toNat + 4 ∧ t = s.drop (.overflow n rlen)) ∨
      (rlen.toNat + 4 ≤ s.cfg.bufCap ∧ rlen = 0 ∧ enterChecksum { s with name := some n, len := rlen } = .next t) ∨
      (rlen.toNat + 4 ≤ s.cfg.bufCap ∧ rlen ≠ 0 ∧ t = { s with name := some n, len := rlen, st := .payload }) := by
  unfold admitHeader
  by_cases h : s.cfg.bufCap < rlen.toNat + 4
  · have h' : ¬ rlen.toNat + 4 ≤ s.cfg.bufCap := by omega
    simp only [h, h', if_true, false_and, or_false, true_and, Host.Outcome.next.injEq]
    exact eq_comm
  · have h' : rlen.toNat + 4 ≤ s.cfg.bufCap := by omega
    rw [if_neg h]
    by_cases h0 : rlen = 0
    · rw [if_pos h0]
      constructor
      · exact fun e => .inr (.inl ⟨h', h0, e⟩)
      · rintro (⟨hc, -⟩ | ⟨-, -, e⟩ | ⟨-, hn, -⟩)
        · exact absurd hc h
        · exact e
        · exact absurd h0 hn
    · rw [if_neg h0, Host.Outcome.next.injEq]
      constructor
      · exact fun e => .inr (.inr ⟨h', h0, e.symm⟩)
      · rintro (⟨hc, -⟩ | ⟨-, hz, -⟩ | ⟨-, -, e⟩)
        · exact absurd hc h
        · exact absurd hz h0
        · exact e.symm

/-- The fourth header byte: the header is read, then an unknown signature drops and a match is admitted or dropped. -/
theorem completeHeader_eq_next {s t : State} :
    completeHeader s = .next t ↔ ∃ c i w, readHeader s = .next (c, i, w) ∧
      ((lookup s.cfg.registry c i w = none ∧ t = s.drop (.unknownSignature c i w)) ∨
       (∃ n rlen, lookup s.cfg.registry c i w = some (n, rlen) ∧ admitHeader n rlen s = .next t)) := by
  simp only [completeHeader, andThen_eq_next]
  constructor
  · rintro ⟨⟨c, i, w⟩, hr, hk⟩
    refine ⟨c, i, w, hr, ?_⟩
    cases hl : lookup s.cfg.registry c i w with
    | none =>
      simp only [hl, Host.Outcome.next.injEq] at hk
      exact .inl ⟨rfl, hk.symm⟩
    | some p =>
      simp only [hl] at hk
      exact .inr ⟨p.1, p.2, rfl, hk⟩
  · rintro ⟨c, i, w, hr, ⟨hl, rfl⟩ | ⟨n, rlen, hl, ha⟩⟩
    · exact ⟨_, hr, by simp [hl]⟩
    · exact ⟨_, hr, by simp [hl, ha]⟩

/-- FEED in Header: the byte is stored; the fourth one completes the header. -/
theorem feedHeader_eq_next {b : Byte} {s t : State} :
    feedHeader b s = .next t ↔ ∃ u, storeByte b s = .next u ∧
      ((u.idx = 4 ∧ completeHeader u = .next t) ∨ (u.idx ≠ 4 ∧ t = { u with st := .header })) := by
  simp only [feedHeader, andThen_eq_next]
  refine exists_congr fun u => and_congr_right fun _ => ?_
  by_cases h : u.idx = 4
  · rw [if_pos h]
    exact ⟨fun e => .inl ⟨h, e⟩, fun e => e.elim (fun e => e.2) fun e => absurd h e.1⟩
  · rw [if_neg h, Host.Outcome.next.injEq]
    exact ⟨fun e => .inr ⟨h, e.symm⟩, fun e => e.elim (fun e => absurd e.1 h) fun e => e.2.symm⟩

/-- FEED in Payload: the byte is stored; the last one brings the checksum. -/
theorem feedPayload_eq_next {b : Byte} {s t : State} :
    feedPayload b s = .next t ↔ ∃ u, storeByte b s = .next u ∧
      ((u.idx = 4 + u.len.toNat ∧ enterChecksum u = .next t) ∨
       (u.idx ≠ 4 + u.len.toNat ∧ t = { u with st := .payload })) := by
  simp only [feedPayload, andThen_eq_next]
  refine exists_congr fun u => and_congr_right fun _ => ?_
  by_cases h : u.idx = 4 + u.len.toNat
  · rw [if_pos h]
    exact ⟨fun e => .inl ⟨h, e⟩, fun e => e.elim (fun e => e.2) fun e => absurd h e.1⟩
  · rw [if_neg h, Host.Outcome.next.injEq]
    exact ⟨fun e => .inr ⟨h, e.symm⟩, fun e => e.elim (fun e => absurd e.1 h) fun e => e.2.symm⟩

end Sys2Proof.Machine
end

