-- ==== Sys2Proof/Laws/PerInstr.lean ====
section
/-! SUPPORT. For every instruction that has a row with a match and a mask: the word the encoder writes lies in that row of
opcode_table.json. -/

namespace Sys2Proof.Laws.TableWord

/-- The encoder's word agrees with the row's match under the row's mask. -/
def Statement (i : Instr) : Prop :=
  ∀ r, i.tableRow = some r → ∃ w, (encode i).tableWord = some w ∧ w &&& r.mask = r.value

theorem of_word {i : Instr} {r : TableRow} {w : BitVec 32} (hr : i.tableRow = some r)
    (hw : (encode i).tableWord = some w) (h : w &&& r.mask = r.value) : Statement i := by
  intro r' hr'
  rw [hr] at hr'
  cases hr'
  exact ⟨w, hw, h⟩

theorem of_noRow {i : Instr} (h : i.tableRow = none) : Statement i := by
  intro r hr
  rw [h] at hr
  cases hr

theorem byteWord_masked : ∀ b : Byte, (controlWord false true b).setWidth 32 &&& 0x300 = (0x100 : BitVec 32) := by decide

theorem byteWord_exact :
    ∀ b : Byte, (controlWord false true b).setWidth 32 &&& 0x3FF = (0x100 ||| b.setWidth 32 : BitVec 32) := by decide

theorem reset : Statement (.reset) := of_word rfl rfl (by decide)

theorem feed (b : Byte) : Statement (.feed b) := of_word rfl rfl (byteWord_masked b)

theorem idle : Statement (.idle) := of_word rfl rfl (by decide)

theorem ckClear : Statement (.ckClear) := of_word rfl rfl (by decide)

theorem ckAccum (b : Byte) : Statement (.ckAccum b) := of_word rfl rfl (byteWord_masked b)

theorem ckIdle : Statement (.ckIdle) := of_word rfl rfl (by decide)

theorem readResult : Statement (.readResult) := of_noRow rfl

theorem readErr : Statement (.readErr) := of_noRow rfl

theorem readBuf (a : Nat) : Statement (.readBuf a) := of_noRow rfl

theorem readCk : Statement (.readCk) := of_noRow rfl

theorem lookup (c : Byte) (i : Byte) (w : Half) : Statement (.lookup c i w) := of_noRow rfl

theorem feedWaitSync1Sync1 : Statement (.feedWaitSync1Sync1) := of_word rfl rfl (by decide)

theorem feedWaitSync1Noise (b : Byte) : Statement (.feedWaitSync1Noise b) :=
  of_word rfl rfl (byteWord_masked b)

theorem feedWaitSync2Sync2 : Statement (.feedWaitSync2Sync2) := of_word rfl rfl (by decide)

theorem feedWaitSync2SyncLoss (b : Byte) : Statement (.feedWaitSync2SyncLoss b) :=
  of_word rfl rfl (byteWord_masked b)

theorem feedHeaderByte (b : Byte) : Statement (.feedHeaderByte b) := of_word rfl rfl (byteWord_masked b)

theorem feedHeaderLast (b : Byte) : Statement (.feedHeaderLast b) := of_word rfl rfl (byteWord_masked b)

theorem feedPayloadByte (b : Byte) : Statement (.feedPayloadByte b) := of_word rfl rfl (byteWord_masked b)

theorem feedPayloadLast (b : Byte) : Statement (.feedPayloadLast b) := of_word rfl rfl (byteWord_masked b)

theorem feedChecksumAGood (b : Byte) : Statement (.feedChecksumAGood b) := of_word rfl rfl (byteWord_exact b)

theorem feedChecksumABad (b : Byte) : Statement (.feedChecksumABad b) := of_word rfl rfl (byteWord_masked b)

theorem feedChecksumBGood (b : Byte) : Statement (.feedChecksumBGood b) := of_word rfl rfl (byteWord_exact b)

theorem feedChecksumBBad (b : Byte) : Statement (.feedChecksumBBad b) := of_word rfl rfl (byteWord_masked b)

theorem sigFixV7 : Statement (.sigFixV7) := of_word rfl rfl (by decide)

theorem sigFixV8 : Statement (.sigFixV8) := of_word rfl rfl (by decide)

theorem sigTimePulseCfg : Statement (.sigTimePulseCfg) := of_word rfl rfl (by decide)

theorem sigAck : Statement (.sigAck) := of_word rfl rfl (by decide)

theorem sigNak : Statement (.sigNak) := of_word rfl rfl (by decide)

theorem sigSatelliteInfo (w : Half) : Statement (.sigSatelliteInfo w) :=
  of_word rfl rfl ((sigWord_masked _ _ w).trans (by decide))

theorem sigGnssEnableCfg (w : Half) : Statement (.sigGnssEnableCfg w) :=
  of_word rfl rfl ((sigWord_masked _ _ w).trans (by decide))

end Sys2Proof.Laws.TableWord
end

