-- ==== Sys2Proof/Laws/Stream.lean ====
section
/-! SUPPORT. Runs of operations. -/

namespace Sys2Proof.Machine

@[simp] theorem execAll_nil (s : State) : execAll [] s = .next s := rfl

theorem execAll_cons (i : Instr) (is : List Instr) (s : State) :
    execAll (i :: is) s = andThen (exec i s) (execAll is) := rfl

theorem execAll_append (is js : List Instr) : ∀ s : State, execAll (is ++ js) s = andThen (execAll is s) (execAll js) := by
  induction is with
  | nil => intro s; rfl
  | cons i is ih =>
    intro s
    rw [List.cons_append, execAll_cons, execAll_cons]
    cases exec i s with
    | next t => exact ih t
    | fault f => rfl
    | refused r => rfl

theorem feeds_append (bs cs : List Byte) : feeds (bs ++ cs) = feeds bs ++ feeds cs := List.map_append ..

end Sys2Proof.Machine
end

