-- ==== Sys2Proof/Tests/Slice0.lean ====
section
/-! SUPPORT. The model's own tests: ill-formed terms, words written out from the encodings, vectors of
95_test_vectors.md, and witnesses for the hypotheses of the statements. Expected values are the spec's. -/

namespace Sys2Proof.Tests

open Sys2Proof Sys2Proof.Machine Sys2Proof.Spec

/-- What a view sees of the next state, none at a stop. -/
def after {α : Type} (o : Host.Outcome State Fault Refusal) (view : State → α) : Option α :=
  match o with
  | .next s    => some (view s)
  | .fault _   => none
  | .refused _ => none

/-- The fault of an outcome. -/
def faultOf (o : Host.Outcome State Fault Refusal) : Option Fault :=
  match o with
  | .fault f => some f
  | _        => none

/-- The refusal of an outcome. -/
def refusalOf (o : Host.Outcome State Fault Refusal) : Option Refusal :=
  match o with
  | .refused r => some r
  | _          => none

/-- A state with the given framer state, counter and stored bytes, the rest as after reset. -/
def at_ (st : FramerState) (idx : Nat) (bytes : List Byte) : State :=
  { State.reset with st := st, idx := idx, buf := bytes.zipIdx.map fun p => (p.2, p.1) }

/-- A configuration with another capacity. -/
def cap4 : Config := { defaultConfig with bufCap := 4, bufCap_min := by decide }

/-- A two-bit error counter (program P9). -/
def err2 : Config := { defaultConfig with errW := 2, errW_min := by decide }

/-! WellFormed: an ill-formed term for each check -/

theorem test_wf_noise_refuses_sync1 : Instr.wellFormed defaultConfig (.feedWaitSync1Noise 0xB5) = false := by decide
theorem test_wf_noise_accepts_62 : Instr.wellFormed defaultConfig (.feedWaitSync1Noise 0x62) = true := by decide
theorem test_wf_syncLoss_refuses_sync2 : Instr.wellFormed defaultConfig (.feedWaitSync2SyncLoss 0x62) = false := by decide
theorem test_wf_syncLoss_accepts_B5 : Instr.wellFormed defaultConfig (.feedWaitSync2SyncLoss 0xB5) = true := by decide
theorem test_wf_readBuf_refuses_2048 : Instr.wellFormed defaultConfig (.readBuf 2048) = false := by decide
theorem test_wf_readBuf_accepts_2047 : Instr.wellFormed defaultConfig (.readBuf 2047) = true := by decide

/-! Parameters (R6): NAME_W = 3, IDX_W = 11, every default fixed entry fits; the name of entry 3 (R63) -/

theorem test_default_widths : defaultConfig.nameW = 3 ∧ defaultConfig.idxW = 11 ∧ defaultConfig.entries = 7 := by decide
theorem test_default_fits : defaultConfig.fitsFixedEntries = true ∧ cap4.fitsFixedEntries = false := by decide
theorem test_name_of_entry3 : (defaultRegistry[3]?.map Entry.name) = some "ack" := by decide

/-! Decoding: for every constructor a word written out from R49, R50 or R63 -/

theorem test_decode_reset : decode (.framer 0b1000000000) = .reset ∧ decode (.framer 0b1101101000) = .reset := by decide
theorem test_decode_feed : decode (.framer 0b0101100010) = .feed 0x62 := by decide
theorem test_decode_idle : decode (.framer 0b0010110101) = .idle := by decide
theorem test_decode_ckClear : decode (.checksum 0b1100000111) = .ckClear := by decide
theorem test_decode_ckAccum : decode (.checksum 0b0110000001) = .ckAccum 0x81 := by decide
theorem test_decode_ckIdle : decode (.checksum 0b0000000111) = .ckIdle := by decide
theorem test_decode_ports : decode .readResult = .readResult ∧ decode .readErr = .readErr ∧
    decode (.readBuf 5) = .readBuf 5 ∧ decode .readCk = .readCk ∧
    decode (.lookup 0x05 0x00 2) = .lookup 0x05 0x00 2 := by decide
theorem test_row_sync1 : encode .feedWaitSync1Sync1 = .framer 0b0110110101 ∧
    feedRow 0xB5 (at_ .waitSync1 0 []) = .feedWaitSync1Sync1 := by decide
theorem test_row_noise : encode (.feedWaitSync1Noise 0x62) = .framer 0b0101100010 ∧
    feedRow 0x62 (at_ .waitSync1 0 []) = .feedWaitSync1Noise 0x62 := by decide
theorem test_row_sync2 : encode .feedWaitSync2Sync2 = .framer 0b0101100010 ∧
    feedRow 0x62 (at_ .waitSync2 0 []) = .feedWaitSync2Sync2 := by decide
theorem test_row_syncLoss : encode (.feedWaitSync2SyncLoss 0xB5) = .framer 0b0110110101 ∧
    feedRow 0xB5 (at_ .waitSync2 0 []) = .feedWaitSync2SyncLoss 0xB5 := by decide
theorem test_row_headerByte : encode (.feedHeaderByte 0x05) = .framer 0b0100000101 ∧
    feedRow 0x05 (at_ .header 2 [5, 1]) = .feedHeaderByte 0x05 := by decide
theorem test_row_headerLast : encode (.feedHeaderLast 0x80) = .framer 0b0110000000 ∧
    feedRow 0x80 (at_ .header 3 [5, 1, 2]) = .feedHeaderLast 0x80 := by decide
theorem test_row_payloadByte : encode (.feedPayloadByte 0x06) = .framer 0b0100000110 ∧
    feedRow 0x06 { at_ .payload 4 [5, 1, 2, 0] with len := 2 } = .feedPayloadByte 0x06 := by decide
theorem test_row_payloadLast : encode (.feedPayloadLast 0x31) = .framer 0b0100110001 ∧
    feedRow 0x31 { at_ .payload 5 [5, 1, 2, 0, 6] with len := 2 } = .feedPayloadLast 0x31 := by decide
theorem test_row_ckAGood : encode (.feedChecksumAGood 0x3F) = .framer 0b0100111111 ∧
    feedRow 0x3F { at_ .checksumA 6 [] with ckA := 0x3F } = .feedChecksumAGood 0x3F := by decide
theorem test_row_ckABad : encode (.feedChecksumABad 0x3E) = .framer 0b0100111110 ∧
    feedRow 0x3E { at_ .checksumA 6 [] with ckA := 0x3F } = .feedChecksumABad 0x3E := by decide
theorem test_row_ckBGood : encode (.feedChecksumBGood 0x68) = .framer 0b0101101000 ∧
    feedRow 0x68 { at_ .checksumB 6 [] with ckB := 0x68 } = .feedChecksumBGood 0x68 := by decide
theorem test_row_ckBBad : encode (.feedChecksumBBad 0x69) = .framer 0b0101101001 ∧
    feedRow 0x69 { at_ .checksumB 6 [] with ckB := 0x68 } = .feedChecksumBBad 0x69 := by decide
theorem test_sig_fixV7 : decodeTableWord 32 0b00000000010101000000011100000001 = some .sigFixV7 := by decide
theorem test_sig_fixV8 : decodeTableWord 32 0b00000000010111000000011100000001 = some .sigFixV8 := by decide
theorem test_sig_timePulse : decodeTableWord 32 0b00000000001000000011000100000110 = some .sigTimePulseCfg := by decide
theorem test_sig_ack : decodeTableWord 32 0b00000000000000100000000100000101 = some .sigAck := by decide
theorem test_sig_nak : decodeTableWord 32 0b00000000000000100000000000000101 = some .sigNak := by decide
theorem test_sig_satellite : decodeTableWord 32 0b00000001001011000011010100000001 = some (.sigSatelliteInfo 300) := by decide
theorem test_sig_gnss : decodeTableWord 32 0b00000000000010000011111000000110 = some (.sigGnssEnableCfg 8) := by decide
theorem test_sig_unknown : decodeTable 32 0x00540107 = .error .unknownSignature := rfl
theorem test_word_tooWide : decodeTable 40 0x100000000 = .error .wordTooWide := rfl

/-! The checksum function (vectors CV2, CV4, CV6, CV10, CV12) and the engine (EV1 to EV6) -/

theorem test_checksum_one : checksum [0x07] = (0x07, 0x07) := by decide
theorem test_checksum_wrap : checksum [0xFF, 0xFF] = (0xFE, 0xFD) := by decide
theorem test_checksum_weights : checksum [1, 2, 3, 4, 5] = (0x0F, 0x23) := by decide
theorem test_checksum_order : checksum [1, 2] = (3, 4) ∧ checksum [2, 1] = (3, 5) := by decide
theorem test_checksum_ack : checksum [0x05, 0x01, 0x02, 0x00, 0x06, 0x31] = (0x3F, 0x68) := by decide
theorem test_ckClear : after (exec .ckClear { State.reset with ceA := 0x3F, ceB := 0x68 }) State.ckOut = some (0, 0) := by decide
theorem test_ckAccum_wrap : after (exec (.ckAccum 0) { State.reset with ceA := 0xFE, ceB := 0xFD }) State.ckOut =
    some (0xFE, 0xFB) := by decide
theorem test_ckAccum_07 : after (exec (.ckAccum 7) State.reset) State.ckOut = some (7, 7) := by decide
theorem test_ckIdle : after (exec .ckIdle { State.reset with ceA := 6, ceB := 0x17 }) State.ckOut = some (6, 0x17) := by decide
theorem test_readCk : after (exec .readCk { State.reset with ceA := 6, ceB := 0x17 }) State.reading =
    some (some (.ckOut 6 0x17)) := by decide

/-! Lookup (vectors LV2, LV3, LV4, LV7, LV13, LV17, LV18) and the signature rows -/

theorem test_lookup_fixV8 : lookup defaultRegistry 0x01 0x07 92 = some (1, 92) := by decide
theorem test_lookup_lengths : lookup defaultRegistry 0x01 0x07 88 = none ∧
    lookup defaultRegistry 0x01 0x07 0x0154 = none := by decide
theorem test_lookup_max : lookup defaultRegistry 0x01 0x35 0xFFFF = some (5, 65535) := by decide
theorem test_lookup_shadow :
    lookup [⟨"var", 1, 0x35, 0⟩, ⟨"fixed8", 1, 0x35, 8⟩] 1 0x35 8 = some (0, 8) ∧
    lookup [⟨"fixed8", 1, 0x35, 8⟩, ⟨"var", 1, 0x35, 0⟩] 1 0x35 9 = some (1, 9) := by decide
theorem test_execLookup_hit : after (exec (.lookup 5 0 2) State.reset) State.reading =
    some (some (.lookup true 4 2)) := by decide
theorem test_execLookup_miss : after (exec (.lookup 5 0 3) State.reset) State.reading =
    some (some (.lookup false 0 0)) := by decide
theorem test_execSigFixV7 : after (exec .sigFixV7 State.reset) State.reading = some (some (.lookup true 0 84)) := by decide
theorem test_execSigNak : after (exec .sigNak State.reset) State.reading = some (some (.lookup true 4 2)) := by decide
theorem test_execSigSatellite : after (exec (.sigSatelliteInfo 0) State.reset) State.reading =
    some (some (.lookup true 5 0)) := by decide

/-! FEED (vectors FV1, FV5, FV8 to FV12, FV17, FV18, FV20 to FV23, FV25, FV26) -/

theorem test_feed_FV1 : after (exec (.feed 0xB5) { at_ .waitSync1 36 [] with name := some 2, res := some 2 })
    (fun t => (t.st, t.idx, t.name, t.res)) = some (.waitSync2, 0, none, none) := by decide
theorem test_feed_FV5 : after (exec (.feed 0xB5) (at_ .waitSync2 0 [])) (fun t => (t.st, t.err, t.events)) =
    some (.waitSync1, 0, [.drop (.syncLoss 0xB5)]) := by decide
theorem test_feed_FV8 : after (exec (.feed 0) (at_ .header 3 [5, 1, 2]))
    (fun t => (t.st, t.idx, t.name, t.len, t.buf.read 3)) = some (.payload, 4, some 3, 2, some 0) := by decide
theorem test_feed_FV9 : after (exec (.feed 0) (at_ .header 3 [5, 7, 2]))
    (fun t => (t.st, t.idx, t.name, t.buf.read 3, t.events)) =
      some (.waitSync1, 4, none, some 0, [.drop (.unknownSignature 5 7 2)]) := rfl
theorem test_feed_FV10 : after (exec (.feed 0) (at_ .header 3 [1, 0x35, 0]))
    (fun t => (t.st, t.len, t.name, t.ckA, t.ckB)) = some (.checksumA, 0, some 5, 0x36, 0xA3) := by decide
theorem test_feed_FV11 : after (exec (.feed 3) (at_ .header 3 [1, 0x35, 0xFD]))
    (fun t => (t.st, t.name, t.events)) = some (.waitSync1, none, [.drop (.overflow 5 1021)]) := by decide
theorem test_feed_FV12 : after (exec (.feed 3) (at_ .header 3 [1, 0x35, 0xFC]))
    (fun t => (t.st, t.name, t.len)) = some (.payload, some 5, 1020) := by decide
theorem test_feed_FV17 : after (exec (.feed 0x31) { at_ .payload 5 [5, 1, 2, 0, 6] with len := 2 })
    (fun t => (t.st, t.idx, t.buf.read 5, t.ckA, t.ckB)) = some (.checksumA, 6, some 0x31, 0x3F, 0x68) := by decide
theorem test_feed_FV18 : after (exec (.feed 0xB5) { at_ .payload 4 [5, 1, 2, 0] with len := 2 })
    (fun t => (t.st, t.idx, t.buf.read 4)) = some (.payload, 5, some 0xB5) := by decide
theorem test_feed_FV20 : after (exec (.feed 0x3E) { at_ .checksumA 6 [] with ckA := 0x3F })
    (fun t => (t.st, t.err, t.events)) = some (.waitSync1, 1, [.drop (.checksumMismatch .a 0x3F 0x3E)]) := by decide
theorem test_feed_FV21 : after (exec (.feed 0x68) { at_ .checksumB 6 [] with ckB := 0x68, name := some 3 })
    (fun t => (t.st, t.res, t.err, t.events)) = some (.waitSync1, some 3, 0, [.emit 3]) := by decide
theorem test_feed_FV22 : after (exec (.feed 0x69) { at_ .checksumB 6 [] with ckB := 0x68, name := some 3 })
    (fun t => (t.st, t.res, t.err)) = some (.waitSync1, none, 1) := by decide
theorem test_feed_FV23 : after (exec (.feed 0) { at_ .checksumA 6 [] with ckA := 0x3F, err := 0xFFFFFFFF })
    (fun t => (t.st, t.err)) = some (.waitSync1, 0) := by decide
theorem test_feed_P9_wrap : after (exec (.feed 0x3F) { at_ .checksumA 6 [] with ckA := 0xBF, err := 3, cfg := err2 })
    State.err = some 0 := by decide
theorem test_feed_FV25 : after (exec (.feed 0) { at_ .header 3 [5, 1, 2] with cfg := cap4 })
    (fun t => (t.st, t.events)) = some (.waitSync1, [.drop (.overflow 3 2)]) := by decide
theorem test_feed_FV26 : after (exec (.feed 0) { at_ .header 3 [1, 0x35, 0] with cfg := cap4 })
    (fun t => (t.st, t.len)) = some (.checksumA, 0) := by decide
theorem test_drop_codes : (Drop.syncLoss 0).code = 1 ∧ (Drop.unknownSignature 5 7 2).code = 2 ∧
    (Drop.checksumMismatch .a 0x3E 0x3F).code = 3 ∧ (Drop.overflow 5 13).code = 4 := by decide

/-! The FEED rows, each under its condition -/

theorem test_rowExec_sync : after (exec .feedWaitSync1Sync1 (at_ .waitSync1 3 [])) (fun t => (t.st, t.idx)) =
    some (.waitSync2, 0) ∧ after (exec .feedWaitSync2Sync2 (at_ .waitSync2 3 [])) (fun t => (t.st, t.idx)) =
    some (.header, 0) := by decide
theorem test_rowExec_noise : after (exec (.feedWaitSync1Noise 0x62) { at_ .waitSync1 3 [] with name := some 1 })
    (fun t => (t.st, t.idx, t.name)) = some (.waitSync1, 0, none) := by decide
theorem test_rowExec_header : after (exec (.feedHeaderByte 5) (at_ .header 0 [])) (fun t => (t.st, t.idx, t.buf)) =
    some (.header, 1, [(0, 5)]) := by decide
theorem test_rowExec_headerLast : after (exec (.feedHeaderLast 0) (at_ .header 3 [1, 7, 0x54]))
    (fun t => (t.st, t.name, t.len)) = some (.payload, some 0, 84) := by decide
theorem test_rowExec_payloadLast : after (exec (.feedPayloadLast 0x31) { at_ .payload 5 [5, 1, 2, 0, 6] with len := 2 })
    (fun t => (t.st, t.ckA, t.ckB)) = some (.checksumA, 0x3F, 0x68) := by decide
theorem test_rowExec_otherState : after (exec .feedWaitSync1Sync1 { at_ .payload 4 [5, 1, 2, 0] with len := 2 })
    (fun t => (t.st, t.buf.read 4)) = some (.payload, some 0xB5) := by decide

/-! RESET, IDLE and the read ports (vectors IV1 to IV6, IV8, IV9) -/

theorem test_reset_IV1 : after (exec .reset { at_ .payload 40 [1, 2] with err := 7 })
    (fun t => (t.st, t.idx, t.err, t.res, t.buf)) = some (.waitSync1, 0, 0, none, []) := rfl
theorem test_reset_wins_IV2 : after (step { at_ .checksumB 6 [] with
    ckB := 0x68, name := some 3, input := [.framer 0b1101101000] }) (fun t => (t.st, t.res, t.events)) =
      some (.waitSync1, none, []) := by decide
theorem test_idle_IV3 : after (exec .idle { State.reset with res := some 3 }) State.res = some (some 3) := by decide
theorem test_readResult_IV4 : after (exec .readResult { State.reset with res := some 3 }) State.reading =
    some (some (.result true 3)) := by decide
theorem test_readResult_IV5 : after (exec .readResult State.reset) State.reading = some (some (.result false 0)) := by decide
theorem test_readErr_IV6 : after (exec .readErr { State.reset with err := 5 }) (fun t => (t.reading, t.err)) =
    some (some (.errCount 5), 5) := by decide
theorem test_readBuf_IV7 : after (exec (.readBuf 5) (at_ .waitSync1 6 [5, 1, 2, 0, 6, 0x31])) State.reading =
    some (some (.rdData 0x31)) := by decide
theorem test_readBuf_IV8_IV9 : faultOf (exec (.readBuf 6) (at_ .waitSync1 6 [5, 1, 2, 0, 6, 0x31])) =
    some (.readUnwritten 6) ∧ refusalOf (exec (.readBuf 1024) State.reset) = some (.bufAddressOutOfRange 1024) := by decide

/-! Steps, the fetch, and the notation (programs P1, P10) -/

theorem test_step_fetchWord : after (step (State.reset.withFetchWord 16 0x1B5)) (fun t => (t.st, t.input)) =
    some (.waitSync2, []) := by decide
theorem test_step_signature : after (step (State.reset.withFetchWord 32 0x00020105)) State.reading =
    some (some (.lookup true 3 2)) := by decide
theorem test_step_empty : after (step State.reset) (fun t => (t.st, t.input)) = some (.waitSync1, []) := by decide
theorem test_frame_S9 : frame 0x05 0x01 [0x06, 0x31] = [0xB5, 0x62, 5, 1, 2, 0, 6, 0x31, 0x3F, 0x68] := by decide
theorem test_poll_S7 : pollOps 0x06 0x31 = feeds [0xB5, 0x62, 6, 0x31, 0, 0, 0x37, 0xAB] := by decide
theorem test_wireLength : wireLength 0x54 0x01 = 340 := by decide

/-! Witnesses: for every statement with hypotheses a state and operands that meet them, one per clause -/

/-- A satellite-info frame of length 0 up to its ckB byte (vector FV10, program P8). -/
def wB : State := { at_ .checksumB 4 [1, 0x35, 0, 0] with name := some 5, ckA := 0x36, ckB := 0xA3 }

/-- The same one byte earlier. -/
def wA : State := { wB with st := .checksumA }

theorem wB_holds : BufHolds wB [1, 0x35, 0, 0] := by unfold BufHolds; decide

theorem wB_inv : Inv wB := by
  refine ⟨by decide, by decide, by decide, fun n h => ?_, ?_⟩
  · cases h
  · exact ⟨5, [1, 0x35, 0, 0], ⟨rfl, by decide, wB_holds, rfl, 1, 0x35, 0, 0, [], rfl, by decide⟩, by decide, by decide⟩

theorem witness_ResetRestoresEveryRegister : (0x3FF : BitVec 10).getLsbD 9 = true := by decide
theorem witness_FeedInWaitSync1 : (at_ .waitSync1 4 []).st = .waitSync1 ∧ (0xB6 : Byte) ≠ 0xB5 := by decide
theorem witness_FeedInWaitSync2 : (at_ .waitSync2 0 []).st = .waitSync2 ∧ (0xB5 : Byte) ≠ 0x62 := by decide
theorem witness_FeedInHeader_stored : (at_ .header 2 [5, 1]).st = .header ∧ (at_ .header 2 [5, 1]).idx ≠ 3 ∧
    (at_ .header 2 [5, 1]).idx < (at_ .header 2 [5, 1]).cfg.bufCap := by decide
theorem witness_FeedInHeader_fourth : (at_ .header 3 [5, 1, 2]).st = .header ∧ (at_ .header 3 [5, 1, 2]).idx = 3 ∧
    BufHolds (at_ .header 3 [5, 1, 2]) [5, 1, 2] := by unfold BufHolds; decide
theorem witness_FeedInPayload_stored : let s := { at_ .payload 4 [5, 1, 2, 0] with len := 2 }
    s.st = .payload ∧ s.idx < s.cfg.bufCap ∧ s.idx + 1 ≠ 4 + s.len.toNat := by decide
theorem witness_FeedInPayload_last : let s := { at_ .payload 5 [5, 1, 2, 0, 6] with len := 2 }
    s.st = .payload ∧ s.idx < s.cfg.bufCap ∧ s.idx + 1 = 4 + s.len.toNat ∧ [5, 1, 2, 0, (6 : Byte)].length = s.idx ∧
      BufHolds s [5, 1, 2, 0, 6] := by unfold BufHolds; decide
theorem witness_FeedInChecksumA : wA.st = .checksumA ∧ (0x36 : Byte) = wA.ckA ∧ (0x37 : Byte) ≠ wA.ckA := by decide
theorem witness_FeedInChecksumB : wB.st = .checksumB ∧ (0xA3 : Byte) = wB.ckB ∧ wB.name = some 5 ∧
    (0xA4 : Byte) ≠ wB.ckB := by decide
theorem witness_FeedOutside_store : (at_ .header 1024 []).st = .header ∧
    (at_ .header 1024 []).cfg.bufCap ≤ (at_ .header 1024 []).idx := by decide
theorem witness_FeedOutside_header : let s := at_ .header 3 [5, 1]
    s.st = .header ∧ s.idx = 3 ∧ (∀ j, j < 2 → s.buf.read j ≠ none) ∧ s.buf.read 2 = none := by decide
theorem witness_FeedOutside_payload : let s := { at_ .payload 5 [5, 1, 2, 0] with len := 2 }
    s.st = .payload ∧ s.idx < s.cfg.bufCap ∧ s.idx + 1 = 4 + s.len.toNat ∧ 4 < s.idx ∧
      (∀ j, j < 4 → s.buf.read j ≠ none) ∧ s.buf.read 4 = none := by decide
theorem witness_FeedOutside_emit : let s := { wB with name := none }
    s.st = .checksumB ∧ (0xA3 : Byte) = s.ckB ∧ s.name = none := by decide
theorem witness_FeedRecordsAtMostOneEvent : exec (.feed 0xA3) wB =
    .next { wB with res := some 5, st := .waitSync1, events := [.emit 5] } := by rfl
theorem witness_FeedFrame_stores : exec (.feed 5) (at_ .header 0 []) =
    .next { at_ .header 1 [5] with res := none } := by rfl
theorem witness_FeedFrame_leaves : (at_ .waitSync2 0 []).st ≠ .header ∧ (at_ .waitSync2 0 []).st ≠ .payload ∧
    exec (.feed 0x62) (at_ .waitSync2 0 []) = .next (at_ .header 0 []) := ⟨by decide, by decide, rfl⟩
theorem witness_ErrCounts_mismatch : Mismatch 0xA4 wB ∧ (Instr.feedChecksumBBad 0xA4).base = .feed 0xA4 ∧
    after (exec (.feedChecksumBBad 0xA4) wB) State.err = some 1 := ⟨.inr ⟨rfl, by decide⟩, rfl, by decide⟩
theorem witness_ErrCounts_other : Instr.idle ≠ .reset ∧ (∀ b, Instr.idle.base = .feed b → ¬ Mismatch b wB) ∧
    exec .idle wB = .next wB := ⟨by decide, fun _ h => (nomatch h), rfl⟩
theorem witness_SyncRows : (at_ .waitSync1 0 []).st = .waitSync1 ∧ (at_ .waitSync2 0 []).st = .waitSync2 ∧
    (0x62 : Byte) ≠ 0xB5 ∧ (0xB5 : Byte) ≠ 0x62 := by decide
theorem witness_HeaderRows_byte : (at_ .header 2 [5, 1]).st = .header ∧ (at_ .header 2 [5, 1]).idx < 3 := by decide
theorem witness_HeaderRows_last : (at_ .header 3 [1, 0x35, 0]).st = .header ∧ (at_ .header 3 [1, 0x35, 0]).idx = 3 ∧
    BufHolds (at_ .header 3 [1, 0x35, 0]) [1, 0x35, 0] := by unfold BufHolds; decide
theorem witness_PayloadRows_byte : let s := { at_ .payload 4 [5, 1, 2, 0] with len := 2 }
    s.st = .payload ∧ s.idx < s.cfg.bufCap ∧ s.idx + 1 < 4 + s.len.toNat := by decide
theorem witness_PayloadRows_last : let s := { at_ .payload 4 [1, 0x35, 1, 0] with len := 1 }
    s.st = .payload ∧ s.idx < s.cfg.bufCap ∧ s.idx + 1 = 4 + s.len.toNat ∧ [1, 0x35, 1, (0 : Byte)].length = s.idx ∧
      BufHolds s [1, 0x35, 1, 0] := by unfold BufHolds; decide
theorem witness_ChecksumRows : wA.st = .checksumA ∧ (0x36 : Byte) = wA.ckA ∧ (0 : Byte) ≠ wA.ckA ∧
    wB.st = .checksumB ∧ (0xA3 : Byte) = wB.ckB ∧ wB.name = some 5 ∧ (0 : Byte) ≠ wB.ckB := by decide
theorem witness_SignatureRowsAnswer : wB.cfg.registry = defaultRegistry := rfl
theorem witness_FeedRowsPartition : Inv wB ∧ feedRow 0xA3 wB = .feedChecksumBGood 0xA3 := ⟨wB_inv, by decide⟩
theorem witness_IdleChangesNothing : (0x0FF : BitVec 10).getLsbD 9 = false ∧ (0x0FF : BitVec 10).getLsbD 8 = false := by decide
theorem witness_ReadPortsDeliver : { State.reset with res := some 0 }.res = some 0 ∧ State.reset.res = none := by decide
theorem witness_ReadBufCases : 3 < wB.cfg.bufCap ∧ wB.buf.read 3 = some 0 ∧ 1023 < wB.cfg.bufCap ∧
    wB.buf.read 1023 = none ∧ wB.cfg.bufCap ≤ 1024 := by decide
theorem witness_LookupPortDelivers : lookup wB.cfg.registry 1 0x35 0xFFFF = some (5, 0xFFFF) ∧
    lookup wB.cfg.registry 7 1 84 = none := by decide
theorem witness_ReadsAreIdempotent : IsRead .readErr ∧ exec .readErr wB =
    .next { wB with reading := some (.errCount 0) } := ⟨.inr (.inl rfl), rfl⟩
theorem witness_LookupIsFirstMatch : lookup defaultRegistry 5 0 2 = some (4, 2) ∧
    lookup defaultRegistry 5 0 3 = none := by decide
theorem witness_LookupResolvesToWireLength : lookup defaultRegistry 6 0x3E 7 = some (6, 7) := by decide
theorem witness_DefaultRegistryUnambiguous : ∃ e, defaultRegistry[6]? = some e ∧ Matches e 6 0x3E 0 :=
  ⟨_, rfl, by decide, by decide, .inr (by decide)⟩
theorem witness_ChecksumDetectsOneByteChange : 1 < [5, (6 : Byte)].length ∧ [5, (6 : Byte)][1]? ≠ some 7 := by decide
theorem witness_ChecksumZerosAndSwaps : (0xFF : Byte) ≠ 0 := by decide
theorem witness_ChecksumMissesOppositeChanges : (zeros 255).length = 255 := List.length_replicate ..
theorem witness_WritersOfEachRegister : exec (.readBuf 0) wB = .next { wB with reading := some (.rdData 1) } ∧
    (∀ b, (Instr.readBuf 0).base ≠ .feed b) ∧ Instr.readBuf 0 ≠ .reset ∧ Instr.readBuf 0 ≠ .ckClear ∧
    (∀ b, Instr.readBuf 0 ≠ .ckAccum b) := ⟨rfl, by simp [Instr.base], by simp, by simp, by simp⟩
theorem witness_WritersOfEachRegister_notRead : ¬ IsRead .ckClear ∧
    exec .ckClear wB = .next { wB with ceA := 0, ceB := 0 } := ⟨by simp [IsRead, Instr.base], rfl⟩
theorem wB_input_inv : Inv { wB with input := [.framer 0x1A3] } := by
  refine ⟨by decide, by decide, by decide, fun n h => ?_, ?_⟩
  · cases h
  · exact ⟨5, [1, 0x35, 0, 0], ⟨rfl, by decide, wB_holds, rfl, 1, 0x35, 0, 0, [], rfl, by decide⟩, by decide, by decide⟩
theorem witness_StepKeepsInvariant : Inv { wB with input := [.framer 0x1A3] } ∧
    step { wB with input := [.framer 0x1A3] } =
      .next { wB with res := some 5, st := .waitSync1, events := [.emit 5] } := ⟨wB_input_inv, rfl⟩
theorem witness_FeedAlwaysCompletes : Inv wB ∧ wB.st = .checksumB ∧ (0xA4 : Byte) ≠ wB.ckB :=
  ⟨wB_inv, by decide, by decide⟩
theorem witness_StepStopsOnlyOnBadRead : Inv wB := wB_inv
theorem witness_EmittedFrameIsValid : Inv wB ∧ exec (.feed 0xA3) wB =
    .next { wB with res := some 5, st := .waitSync1, events := [.emit 5] } ∧
    { wB with res := some 5, st := .waitSync1, events := [.emit 5] }.res = some 5 := ⟨wB_inv, rfl, rfl⟩
theorem witness_AcceptedFrameIsEmitted : (at_ .waitSync1 0 []).st = .waitSync1 ∧
    Accepted (at_ .waitSync1 0 []).cfg 5 1 [0x06, 0x31] 3 := ⟨rfl, by decide, by decide, by decide⟩
theorem witness_CorruptedFrameIsCounted : (at_ .waitSync1 0 []).st = .waitSync1 ∧
    Accepted (at_ .waitSync1 0 []).cfg 5 1 [0x06, 0x31] 3 ∧ 6 ≤ 9 ∧ 9 < 8 + [(0x06 : Byte), 0x31].length ∧
    (frame 5 1 [0x06, 0x31])[9]? ≠ some 0x69 := ⟨rfl, ⟨by decide, by decide, by decide⟩, by decide, by decide, by decide⟩
theorem witness_CorruptedFrame_firstPayloadByte : 6 < 8 + [(0x06 : Byte), 0x31].length ∧
    (frame 5 1 [0x06, 0x31])[6]? ≠ some 0x07 := by decide
theorem witness_CorruptedFrame_ckA : 8 < 8 + [(0x06 : Byte), 0x31].length ∧
    (frame 5 1 [0x06, 0x31])[8]? ≠ some 0x3E := by decide
theorem witness_FramerReturnsToSync : Inv wB ∧ (zeros 1027).length = wB.cfg.bufCap + 3 :=
  ⟨wB_inv, List.length_replicate ..⟩
theorem witness_StepKeepsIndistinguishable :
    Indistinguishable (at_ .waitSync1 0 []) { at_ .waitSync1 7 [] with ckA := 1, len := 9, name := some 2 } :=
  ⟨rfl, fun h => absurd rfl h, fun h => absurd rfl h, by simp [at_], by simp [at_], rfl, rfl, rfl, ⟨rfl, rfl⟩, rfl, rfl,
    rfl, rfl⟩
theorem witness_inWaitSync1 : (at_ .waitSync1 6 [5, 1, 2, 0, 6, 0x31]).st = .waitSync1 := rfl
theorem witness_SyncByteAsCkBLosesNextFrame : wA.st = .checksumA ∧ (0x92 : Byte) ≠ wA.ckA := by decide
theorem witness_StepRunsDecodedWord : { wB with input := [.readErr] }.input = .readErr :: [] ∧ wB.input = [] := ⟨rfl, rfl⟩
theorem witness_PresentedOperationsRunInOrder : execAll (feeds [0x62]) (at_ .waitSync2 0 []) =
    .next (at_ .header 0 []) := rfl
theorem witness_FetchWordIsRun : decodeTableWord 16 0x1B5 = some (.feed 0xB5) ∧
    decodeTableWord 32 0x00003E06 = some (.sigGnssEnableCfg 0) := by decide
theorem witness_ControlWordsDecode : (0x3FF : BitVec 10) &&& 0x200 = 0x200 ∧ (0x1FF : BitVec 10) &&& 0x300 = 0x100 ∧
    (0x0FF : BitVec 10) &&& 0x300 = 0x000 := by decide
theorem witness_SignatureWordsDecode : encode .sigAck = .lookup 5 1 2 ∧ Instr.sigAck ≠ Instr.sigAck.base ∧
    decodeSignature 0x00203106 = .ok .sigTimePulseCfg := ⟨by decide, by decide, rfl⟩
theorem witness_ClockedWordsCommute : (0x1B5 : BitVec 10).getLsbD 9 = false := by decide
theorem witness_ResetAndAccumDoNotCommute : (1 : Byte) ≠ 0 := by decide

end Sys2Proof.Tests
end

section
/-! The FEED rows and the signature rows run their word's operation (R50, R51, R69). -/

namespace Sys2Proof.Machine

theorem execFeedWaitSync1Sync1_eq_feed (s : State) : execFeedWaitSync1Sync1 s = feed sync1 s :=
  ite_eq_right_iff.mpr fun h => by rw [feed_waitSync1 _ h]; rfl

theorem execFeedWaitSync1Noise_eq_feed (b : Byte) (s : State) : execFeedWaitSync1Noise b s = feed b s :=
  ite_eq_right_iff.mpr fun ⟨h, hb⟩ => by
    rw [feed_waitSync1 _ h, feedWaitSync1, if_neg hb, ← h]; rfl

theorem execFeedWaitSync2Sync2_eq_feed (s : State) : execFeedWaitSync2Sync2 s = feed sync2 s :=
  ite_eq_right_iff.mpr fun h => by rw [feed_waitSync2 _ h]; rfl

theorem execFeedWaitSync2SyncLoss_eq_feed (b : Byte) (s : State) : execFeedWaitSync2SyncLoss b s = feed b s :=
  ite_eq_right_iff.mpr fun ⟨h, hb⟩ => by rw [feed_waitSync2 _ h, feedWaitSync2, if_neg hb]

/-- A store followed by writing the state register with the value it holds is the store. -/
theorem storeByte_then_same_st {b : Byte} {s : State} {x : FramerState} (h : s.st = x) :
    (andThen (storeByte b s) fun t => .next { t with st := x }) = storeByte b s := by
  cases hw : storeByte b s with
  | next t =>
    obtain ⟨-, rfl⟩ := storeByte_eq_next.mp hw
    rw [andThen_next, ← h]
  | fault f => rfl
  | refused r => rfl

/-- A continuation of a store may be replaced by one that agrees with it wherever the store has counted its byte. -/
theorem andThen_storeByte_congr {b : Byte} {s : State} {k k' : State → Host.Outcome State Fault Refusal}
    (h : ∀ t : State, t.idx = s.idx + 1 → t.len = s.len → k t = k' t) :
    andThen (storeByte b s) k = andThen (storeByte b s) k' := by
  cases hw : storeByte b s with
  | next t =>
    obtain ⟨-, rfl⟩ := storeByte_eq_next.mp hw
    exact h _ rfl rfl
  | fault f => rfl
  | refused r => rfl

theorem execFeedHeaderByte_eq_feed (b : Byte) (s : State) : execFeedHeaderByte b s = feed b s :=
  ite_eq_right_iff.mpr fun ⟨h, hi⟩ => by
    rw [feed_header _ h, feedHeader]
    refine (storeByte_then_same_st (s := s.clearResult) h).symm.trans
      (andThen_storeByte_congr fun t ht _ => (if_neg ?_).symm)
    rw [State.clearResult_idx] at ht
    omega

theorem execFeedHeaderLast_eq_feed (b : Byte) (s : State) : execFeedHeaderLast b s = feed b s :=
  ite_eq_right_iff.mpr fun ⟨h, hi⟩ => by
    rw [feed_header _ h, feedHeader]
    refine andThen_storeByte_congr fun t ht _ => (if_pos ?_).symm
    rw [ht, State.clearResult_idx, hi]

theorem execFeedPayloadByte_eq_feed (b : Byte) (s : State) : execFeedPayloadByte b s = feed b s :=
  ite_eq_right_iff.mpr fun ⟨h, hi⟩ => by
    rw [feed_payload _ h, feedPayload]
    refine (storeByte_then_same_st (s := s.clearResult) h).symm.trans
      (andThen_storeByte_congr fun t ht hl => (if_neg ?_).symm)
    rw [ht, hl, State.clearResult_idx, State.clearResult_len]
    exact Nat.ne_of_lt hi

theorem execFeedPayloadLast_eq_feed (b : Byte) (s : State) : execFeedPayloadLast b s = feed b s :=
  ite_eq_right_iff.mpr fun ⟨h, hi⟩ => by
    rw [feed_payload _ h, feedPayload]
    refine andThen_storeByte_congr fun t ht hl => (if_pos ?_).symm
    rw [ht, hl, State.clearResult_idx, State.clearResult_len, hi]

theorem execFeedChecksumAGood_eq_feed (b : Byte) (s : State) : execFeedChecksumAGood b s = feed b s :=
  ite_eq_right_iff.mpr fun ⟨h, hb⟩ => by
    rw [feed_checksumA _ h, feedChecksumA, State.clearResult_ckA, if_pos hb]; rfl

theorem execFeedChecksumABad_eq_feed (b : Byte) (s : State) : execFeedChecksumABad b s = feed b s :=
  ite_eq_right_iff.mpr fun ⟨h, hb⟩ => by
    rw [feed_checksumA _ h, feedChecksumA, State.clearResult_ckA, if_neg hb]

theorem execFeedChecksumBGood_eq_feed (b : Byte) (s : State) : execFeedChecksumBGood b s = feed b s :=
  ite_eq_right_iff.mpr fun ⟨h, hb⟩ => by
    rw [feed_checksumB _ h, feedChecksumB, State.clearResult_ckB, if_pos hb]; rfl

theorem execFeedChecksumBBad_eq_feed (b : Byte) (s : State) : execFeedChecksumBBad b s = feed b s :=
  ite_eq_right_iff.mpr fun ⟨h, hb⟩ => by
    rw [feed_checksumB _ h, feedChecksumB, State.clearResult_ckB, if_neg hb]

/-- A FEED row falls back on FEED where its condition fails and agrees with FEED where it holds; a signature row is
LOOKUP of its header. -/
theorem exec_eq_exec_base (i : Instr) (s : State) : exec i s = exec i.base s := by
  cases i with
  | reset | feed | idle | ckClear | ckAccum | ckIdle | readResult | readErr | readBuf | readCk | lookup => rfl
  | feedWaitSync1Sync1 => exact execFeedWaitSync1Sync1_eq_feed s
  | feedWaitSync1Noise b => exact execFeedWaitSync1Noise_eq_feed b s
  | feedWaitSync2Sync2 => exact execFeedWaitSync2Sync2_eq_feed s
  | feedWaitSync2SyncLoss b => exact execFeedWaitSync2SyncLoss_eq_feed b s
  | feedHeaderByte b => exact execFeedHeaderByte_eq_feed b s
  | feedHeaderLast b => exact execFeedHeaderLast_eq_feed b s
  | feedPayloadByte b => exact execFeedPayloadByte_eq_feed b s
  | feedPayloadLast b => exact execFeedPayloadLast_eq_feed b s
  | feedChecksumAGood b => exact execFeedChecksumAGood_eq_feed b s
  | feedChecksumABad b => exact execFeedChecksumABad_eq_feed b s
  | feedChecksumBGood b => exact execFeedChecksumBGood_eq_feed b s
  | feedChecksumBBad b => exact execFeedChecksumBBad_eq_feed b s
  | sigFixV7 | sigFixV8 | sigTimePulseCfg | sigAck | sigNak | sigSatelliteInfo | sigGnssEnableCfg => rfl

theorem exec_of_base_feed {i : Instr} {b : Byte} (h : i.base = .feed b) (s : State) : exec i s = feed b s := by
  rw [exec_eq_exec_base, h]; rfl

end Sys2Proof.Machine
end

section
/-! Who writes what: an operation that is neither RESET nor a FEED, and the error counter (R16). -/

namespace Sys2Proof.Machine

open Sys2Proof.Spec

/-- An operation that is neither RESET nor a FEED writes at most the checksum engine's accumulators and what the
consumer reads. -/
theorem exec_frame_of_not_reset_not_feed {i : Instr} {s t : State} (hr : i ≠ .reset) (hf : ∀ b, i.base ≠ .feed b)
    (h : exec i s = .next t) : t = { s with ceA := t.ceA, ceB := t.ceB, reading := t.reading } := by
  cases i with
  | reset => exact absurd rfl hr
  | readBuf a =>
    obtain ⟨v, -, hv⟩ := andThen_eq_next.mp h
    obtain rfl := Host.Outcome.next.inj hv
    rfl
  | idle | ckClear | ckAccum | ckIdle | readResult | readErr | readCk | lookup
  | sigFixV7 | sigFixV8 | sigTimePulseCfg | sigAck | sigNak | sigSatelliteInfo | sigGnssEnableCfg =>
    obtain rfl := Host.Outcome.next.inj h
    rfl
  | feed | feedWaitSync1Sync1 | feedWaitSync1Noise | feedWaitSync2Sync2 | feedWaitSync2SyncLoss
  | feedHeaderByte | feedHeaderLast | feedPayloadByte | feedPayloadLast
  | feedChecksumAGood | feedChecksumABad | feedChecksumBGood | feedChecksumBBad => exact absurd rfl (hf _)

theorem storeByte_keeps_err {b : Byte} {s t : State} (h : storeByte b s = .next t) : t.err = s.err := by
  obtain ⟨-, rfl⟩ := storeByte_eq_next.mp h
  rfl

theorem enterChecksum_keeps_err {s t : State} (h : enterChecksum s = .next t) : t.err = s.err := by
  obtain ⟨_, -, rfl⟩ := enterChecksum_eq_next.mp h
  rfl

theorem admitHeader_keeps_err {n : Nat} {rlen : Half} {s t : State} (h : admitHeader n rlen s = .next t) :
    t.err = s.err := by
  obtain ⟨-, rfl⟩ | ⟨-, -, hc⟩ | ⟨-, -, rfl⟩ := admitHeader_eq_next.mp h
  · rfl
  · exact (enterChecksum_keeps_err hc).trans rfl
  · rfl

theorem completeHeader_keeps_err {s t : State} (h : completeHeader s = .next t) : t.err = s.err := by
  obtain ⟨_, _, _, -, ⟨-, rfl⟩ | ⟨_, _, -, ha⟩⟩ := completeHeader_eq_next.mp h
  · rfl
  · exact admitHeader_keeps_err ha

theorem feedWaitSync2_keeps_err {b : Byte} {s t : State} (h : feedWaitSync2 b s = .next t) : t.err = s.err := by
  unfold feedWaitSync2 at h
  split at h <;> obtain rfl := Host.Outcome.next.inj h <;> rfl

theorem feedHeader_keeps_err {b : Byte} {s t : State} (h : feedHeader b s = .next t) : t.err = s.err := by
  obtain ⟨u, hu, ⟨-, hc⟩ | ⟨-, rfl⟩⟩ := feedHeader_eq_next.mp h
  · exact (completeHeader_keeps_err hc).trans (storeByte_keeps_err hu)
  · exact storeByte_keeps_err (t := u) hu

theorem feedPayload_keeps_err {b : Byte} {s t : State} (h : feedPayload b s = .next t) : t.err = s.err := by
  obtain ⟨u, hu, ⟨-, hc⟩ | ⟨-, rfl⟩⟩ := feedPayload_eq_next.mp h
  · exact (enterChecksum_keeps_err hc).trans (storeByte_keeps_err hu)
  · exact storeByte_keeps_err (t := u) hu

/-- ChecksumA counts exactly the bytes that differ from `ck_a` (R76). -/
theorem feedChecksumA_err {b : Byte} {s t : State} (h : feedChecksumA b s = .next t) :
    t.err = if b = s.ckA then s.err else (s.err + 1) % 2 ^ s.cfg.errW := by
  unfold feedChecksumA at h
  split at h
  next hb =>
    obtain rfl := Host.Outcome.next.inj h
    exact (if_pos hb).symm
  next hb =>
    obtain rfl := Host.Outcome.next.inj h
    exact (if_neg hb).symm

/-- ChecksumB counts exactly the bytes that differ from `ck_b` (R77). -/
theorem feedChecksumB_err {b : Byte} {s t : State} (h : feedChecksumB b s = .next t) :
    t.err = if b = s.ckB then s.err else (s.err + 1) % 2 ^ s.cfg.errW := by
  unfold feedChecksumB at h
  split at h
  next hb =>
    obtain rfl := Host.Outcome.next.inj h
    exact (if_pos hb).symm
  next hb =>
    obtain rfl := Host.Outcome.next.inj h
    exact (if_neg hb).symm

theorem feed_err_of_mismatch {b : Byte} {s t : State} (hm : Mismatch b s) (h : feed b s = .next t) :
    t.err = (s.err + 1) % 2 ^ s.cfg.errW := by
  obtain ⟨hs, hb⟩ | ⟨hs, hb⟩ := hm
  · rw [feed_checksumA b hs] at h
    exact (feedChecksumA_err h).trans (if_neg hb)
  · rw [feed_checksumB b hs] at h
    exact (feedChecksumB_err h).trans (if_neg hb)

theorem feed_keeps_err_of_not_mismatch {b : Byte} {s t : State} (hm : ¬ Mismatch b s) (h : feed b s = .next t) :
    t.err = s.err := by
  cases hs : s.st with
  | waitSync1 =>
    rw [feed_waitSync1 b hs] at h
    obtain rfl := Host.Outcome.next.inj h
    rfl
  | waitSync2 => exact feedWaitSync2_keeps_err (s := s.clearResult) (feed_waitSync2 b hs ▸ h)
  | header => exact feedHeader_keeps_err (s := s.clearResult) (feed_header b hs ▸ h)
  | payload => exact feedPayload_keeps_err (s := s.clearResult) (feed_payload b hs ▸ h)
  | checksumA =>
    have hb : b = s.ckA := Decidable.byContradiction fun hb => hm (.inl ⟨hs, hb⟩)
    exact (feedChecksumA_err (s := s.clearResult) (feed_checksumA b hs ▸ h)).trans (if_pos hb)
  | checksumB =>
    have hb : b = s.ckB := Decidable.byContradiction fun hb => hm (.inr ⟨hs, hb⟩)
    exact (feedChecksumB_err (s := s.clearResult) (feed_checksumB b hs ▸ h)).trans (if_pos hb)

theorem exec_keeps_err {i : Instr} {s t : State} (hr : i ≠ .reset) (hm : ∀ b, i.base = .feed b → ¬ Mismatch b s)
    (h : exec i s = .next t) : t.err = s.err := by
  by_cases hf : ∃ b, i.base = .feed b
  · obtain ⟨b, hb⟩ := hf
    exact feed_keeps_err_of_not_mismatch (hm b hb) (exec_of_base_feed hb s ▸ h)
  · rw [exec_frame_of_not_reset_not_feed hr (not_exists.mp hf) h]

end Sys2Proof.Machine
end

section
/-! The statements about the state (10_state.md). -/

namespace Sys2Proof

open Sys2Proof.Machine Sys2Proof.Spec

/-- Settles O13: a row is first taken to the FEED of its byte; a FEED counts in its two checksum rules only, and an
operation that is neither RESET nor a FEED writes no framer register. -/
theorem errCountsMismatchesOnly : Obligations.ErrCountsMismatchesOnly := by
  intro i s t h
  refine ⟨?reset, ?mismatch, ?other⟩
  case reset =>
    rintro rfl
    obtain rfl := Host.Outcome.next.inj h
    exact State.applyReset_err s
  case mismatch =>
    intro b hb hm
    exact feed_err_of_mismatch hm (exec_of_base_feed hb s ▸ h)
  case other => exact fun hr hm => exec_keeps_err hr hm h

/-- Settles O1: `State.reset` is R27's row written out, and its buffer lists no offset. -/
theorem resetStateHoldsSpecValues : Obligations.ResetStateHoldsSpecValues :=
  ⟨rfl, rfl, rfl, rfl, rfl, rfl, rfl, rfl, Memory.read_nil, rfl, rfl⟩

end Sys2Proof
end

section
/-! The checksum's step on numbers modulo 256 (R54), and the engine's operations as that step (R57 to R59). -/

namespace Sys2Proof.Machine

theorem checksumStep_fst_toNat (acc : Byte × Byte) (x : Byte) :
    (checksumStep acc x).1.toNat = (acc.1.toNat + x.toNat) % 256 := BitVec.toNat_add acc.1 x

/-- The second sum takes the first sum as just updated. -/
theorem checksumStep_snd_toNat (acc : Byte × Byte) (x : Byte) :
    (checksumStep acc x).2.toNat = (acc.2.toNat + (checksumStep acc x).1.toNat) % 256 :=
  BitVec.toNat_add acc.2 (checksumStep acc x).1

/-- R56 item 1. -/
theorem checksum_concat (s : List Byte) (x : Byte) : checksum (s ++ [x]) = checksumStep (checksum s) x :=
  checksum_append s [x]

theorem exec_ckClear (s : State) : exec .ckClear s = .next { s with ceA := 0, ceB := 0 } := rfl

theorem exec_ckAccum (b : Byte) (s : State) : exec (.ckAccum b) s =
    .next { s with ceA := (checksumStep (s.ceA, s.ceB) b).1, ceB := (checksumStep (s.ceA, s.ceB) b).2 } := rfl

theorem exec_ckIdle (s : State) : exec .ckIdle s = .next s := rfl

end Sys2Proof.Machine
end

section
/-! The statements about the checksum engine (40_checksum.md). -/

namespace Sys2Proof

open Sys2Proof.Machine Sys2Proof.Spec

/-- Settles O21: CK_ACCUM is the checksum's step on `ce_a` and `ce_b`, and that step on numbers is a sum modulo 256. -/
theorem engineOperations : Obligations.EngineOperations := by
  intro b s
  refine ⟨exec_ckClear s, ?accum, exec_ckIdle s⟩
  have hA : (checksumStep (s.ceA, s.ceB) b).1 = BitVec.ofNat 8 (s.ceA.toNat + b.toNat) :=
    BitVec.eq_of_toNat_eq ((checksumStep_fst_toNat _ b).trans (BitVec.toNat_ofNat _ 8).symm)
  have hB : (checksumStep (s.ceA, s.ceB) b).2 =
      BitVec.ofNat 8 (s.ceB.toNat + (s.ceA.toNat + b.toNat) % 256) := by
    apply BitVec.eq_of_toNat_eq
    rw [checksumStep_snd_toNat, checksumStep_fst_toNat, BitVec.toNat_ofNat]
  rw [exec_ckAccum, hA, hB]

/-- Settles O30: one more byte is one more step of the loop. -/
theorem checksumRunningSum : Obligations.ChecksumRunningSum := by
  refine ⟨checksum_nil, fun s x => ?step⟩
  rw [checksum_concat]
  exact ⟨checksumStep_fst_toNat _ x, checksumStep_snd_toNat _ x⟩

end Sys2Proof
end

section
/-! The matcher as the library's `find?` over the registry's numbered entries (R64, R66), and the LOOKUP port (R69). -/

namespace Sys2Proof.Machine

open Sys2Proof.Spec

/-- The matcher's condition as the specification writes it. -/
theorem entryMatches_iff_matches (e : Entry) (c i : Byte) (w : Half) :
    entryMatches e c i w = true ↔ Matches e c i w := entryMatches_iff e c i w

theorem lookupFrom_eq_find? (n : Nat) (es : List Entry) (c i : Byte) (w : Half) :
    lookupFrom n es c i w = ((es.zipIdx n).find? fun p => entryMatches p.1 c i w).map
      fun p => (p.2, resolvedLength p.1 w) := by
  induction es generalizing n with
  | nil => rfl
  | cons e es ih =>
    rw [lookupFrom_cons, List.zipIdx_cons]
    split
    next h => simp [h]
    next h => simp [h, ih]

theorem lookup_eq_find? (reg : List Entry) (c i : Byte) (w : Half) :
    lookup reg c i w = (reg.zipIdx.find? fun p => entryMatches p.1 c i w).map fun p => (p.2, resolvedLength p.1 w) :=
  lookupFrom_eq_find? 0 reg c i w

theorem lookup_eq_none {reg : List Entry} {c i : Byte} {w : Half} :
    lookup reg c i w = none ↔ ∀ e, e ∈ reg → ¬ Matches e c i w := by
  rw [lookup_eq_find?, Option.map_eq_none_iff, List.find?_eq_none]
  simp only [entryMatches_iff_matches, Prod.forall, List.mk_mem_zipIdx_iff_getElem?]
  simp only [List.mem_iff_getElem?, forall_exists_index]

theorem find?_zipIdx_eq_some {reg : List Entry} {c i : Byte} {w : Half} {e : Entry} {n : Nat} :
    (reg.zipIdx.find? fun p => entryMatches p.1 c i w) = some (e, n) ↔
      reg[n]? = some e ∧ Matches e c i w ∧ ∀ m e', m < n → reg[m]? = some e' → ¬ Matches e' c i w := by
  simp only [List.find?_eq_some_iff_getElem, List.getElem_zipIdx, Nat.zero_add, Prod.mk.injEq, List.length_zipIdx,
    ← entryMatches_iff_matches]
  constructor
  · rintro ⟨hm, n, hn, ⟨rfl, rfl⟩, hfirst⟩
    refine ⟨List.getElem?_eq_getElem hn, hm, fun m e' hlt he' => ?_⟩
    obtain ⟨-, rfl⟩ := List.getElem?_eq_some_iff.mp he'
    simpa using hfirst m hlt
  · rintro ⟨he, hm, hfirst⟩
    obtain ⟨hn, rfl⟩ := List.getElem?_eq_some_iff.mp he
    refine ⟨hm, n, hn, ⟨rfl, rfl⟩, fun m hlt => ?_⟩
    simpa using hfirst m _ hlt (List.getElem?_eq_getElem (Nat.lt_trans hlt hn))

theorem exec_lookup (c i : Byte) (w : Half) (s : State) :
    exec (.lookup c i w) s = .next { s with reading := some (lookupOutputs (lookup s.cfg.registry c i w)) } := rfl

end Sys2Proof.Machine
end

section
/-! The statements about the registry (41_registry.md). -/

namespace Sys2Proof

open Sys2Proof.Machine Sys2Proof.Spec

/-- Settles O27: the matcher's answer is the number and resolved length of the entry `find?` gives. -/
theorem lookupIsFirstMatch : Obligations.LookupIsFirstMatch := by
  intro reg c i w
  refine ⟨fun n r => ?found, lookup_eq_none⟩
  rw [lookup_eq_find?, Option.map_eq_some_iff]
  constructor
  · rintro ⟨⟨e, n⟩, he, hp⟩
    obtain ⟨rfl, rfl⟩ := Prod.mk.inj hp
    obtain ⟨hn, hm, hfirst⟩ := find?_zipIdx_eq_some.mp he
    exact ⟨e, hn, hm, rfl, hfirst⟩
  · rintro ⟨e, hn, hm, rfl, hfirst⟩
    exact ⟨(e, n), find?_zipIdx_eq_some.mpr ⟨hn, hm, hfirst⟩, rfl⟩

/-- Settles O25: the port delivers `lookupOutputs` of the matcher's answer and writes nothing else. -/
theorem lookupPortDelivers : Obligations.LookupPortDelivers := by
  intro c i w s
  rw [exec_lookup]
  exact ⟨fun n r h => by rw [h]; rfl, fun h => by rw [h]; rfl⟩

end Sys2Proof
end

section
/-! FEED on stored bytes: what it answers in Header and Payload, given the bytes the buffer holds (R73 to R75). -/

namespace Sys2Proof.Machine

open Sys2Proof.Spec

theorem exec_feed (b : Byte) (s : State) : exec (.feed b) s = feed b s := rfl

theorem storeByte_clearResult {s : State} (b : Byte) (h : s.idx < s.cfg.bufCap) :
    storeByte b s.clearResult = .next (stored b s) := storeByte_of_lt h

/-- The byte stored at `idx` extends the frame bytes stored so far. -/
theorem bufHolds_stored {s : State} {bs : List Byte} (b : Byte) (hl : bs.length = s.idx) (h : BufHolds s bs) :
    BufHolds (stored b s) (bs ++ [b]) := by
  refine (bufHolds_congr ?_).mp (bufHolds_write b h)
  rw [hl]; rfl

theorem enterChecksum_of_holds {s : State} {bs : List Byte} (h : BufHolds s bs) (hl : bs.length = 4 + s.len.toNat)
    (hc : bs.length ≤ s.cfg.bufCap) :
    enterChecksum s = .next { s with ckA := (checksum bs).1, ckB := (checksum bs).2, st := .checksumA } :=
  enterChecksum_eq_next.mpr ⟨bs, hl ▸ bufReadRange_of_holds h hc, rfl⟩

theorem bufRead_of_holds {s : State} {bs : List Byte} {k : Nat} (h : BufHolds s bs) (hk : k < bs.length)
    (hc : bs.length ≤ s.cfg.bufCap) : bufRead k s = .next bs[k] :=
  bufRead_of_written (Nat.lt_of_lt_of_le hk hc) ((h k hk).trans (List.getElem?_eq_getElem hk))

theorem readHeader_of_holds {s : State} {c i lo hi : Byte} (h : BufHolds s [c, i, lo, hi]) :
    readHeader s = .next (c, i, wireLength lo hi) := by
  have read (k : Nat) (hk : k < 4) : bufRead k s = .next [c, i, lo, hi][k] := bufRead_of_holds h hk s.cfg.bufCap_min
  exact readHeader_eq_next.mpr
    ⟨c, i, lo, hi, read 0 (by decide), read 1 (by decide), read 2 (by decide), read 3 (by decide), rfl⟩

theorem wireLength_eq_ofNat (lo hi : Byte) : wireLength lo hi = BitVec.ofNat 16 (lo.toNat + 256 * hi.toNat) := by
  rw [← wireLength_toNat, BitVec.ofNat_toNat, BitVec.setWidth_eq]

/-- The guard's three answers, the checksum of an empty payload being that of the header. -/
theorem admitHeader_of_holds {s : State} {bs : List Byte} (n : Nat) (r : Half) (h : BufHolds s bs)
    (hl : bs.length = 4) : admitHeader n r s = .next
      (if s.cfg.bufCap < r.toNat + 4 then s.drop (.overflow n r)
      else if r = 0 then
        { s with st := .checksumA, name := some n, len := 0, ckA := (checksum bs).1, ckB := (checksum bs).2 }
      else { s with st := .payload, name := some n, len := r }) := by
  unfold admitHeader
  split
  next => rfl
  next =>
    split
    next hr =>
      subst hr
      exact enterChecksum_of_holds (s := { s with name := some n, len := 0 }) h hl (hl ▸ s.cfg.bufCap_min)
    next => rfl

theorem completeHeader_stored {s : State} {c i lo : Byte} (b : Byte) (h : BufHolds (stored b s) [c, i, lo, b]) :
    completeHeader (stored b s) = .next (afterHeader c i lo b s) := by
  refine completeHeader_eq_next.mpr ⟨c, i, wireLength lo b, readHeader_of_holds h, ?_⟩
  cases hk : lookup s.cfg.registry c i (wireLength lo b) with
  | none =>
    refine .inl ⟨hk, ?_⟩
    simp only [afterHeader, ← wireLength_eq_ofNat, hk]
    rfl
  | some p =>
    refine .inr ⟨p.1, p.2, hk, (admitHeader_of_holds p.1 p.2 h rfl).trans ?_⟩
    simp only [afterHeader, ← wireLength_eq_ofNat, hk]
    rfl

theorem feed_header_byte {s : State} (b : Byte) (hs : s.st = .header) (hi : s.idx ≠ 3) (hc : s.idx < s.cfg.bufCap) :
    feed b s = .next (stored b s) := by
  rw [feed_header b hs]
  have hne : (stored b s).idx ≠ 4 := fun he => hi (Nat.succ.inj he)
  refine feedHeader_eq_next.mpr ⟨stored b s, storeByte_clearResult b hc, .inr ⟨hne, ?_⟩⟩
  rw [← hs]; rfl

theorem feed_header_last {s : State} {c i lo : Byte} (b : Byte) (hs : s.st = .header) (hi : s.idx = 3)
    (h : BufHolds s [c, i, lo]) : feed b s = .next (afterHeader c i lo b s) := by
  rw [feed_header b hs]
  have hc : s.idx < s.cfg.bufCap := hi ▸ s.cfg.bufCap_min
  exact feedHeader_eq_next.mpr ⟨stored b s, storeByte_clearResult b hc,
    .inl ⟨congrArg (· + 1) hi, completeHeader_stored b (bufHolds_stored (bs := [c, i, lo]) b hi.symm h)⟩⟩

theorem feed_payload_byte {s : State} (b : Byte) (hs : s.st = .payload) (hi : s.idx + 1 ≠ 4 + s.len.toNat)
    (hc : s.idx < s.cfg.bufCap) : feed b s = .next (stored b s) := by
  rw [feed_payload b hs]
  refine feedPayload_eq_next.mpr ⟨stored b s, storeByte_clearResult b hc, .inr ⟨hi, ?_⟩⟩
  rw [← hs]; rfl

theorem feed_payload_last {s : State} {bs : List Byte} (b : Byte) (hs : s.st = .payload)
    (hi : s.idx + 1 = 4 + s.len.toNat) (hc : s.idx < s.cfg.bufCap) (hl : bs.length = s.idx) (h : BufHolds s bs) :
    feed b s = .next (afterPayload bs b s) := by
  rw [feed_payload b hs]
  have hlen : (bs ++ [b]).length = s.idx + 1 := by simp [hl]
  have hck : enterChecksum (stored b s) = .next (afterPayload bs b s) :=
    enterChecksum_of_holds (bufHolds_stored b hl h) (hlen.trans hi) (hlen ▸ hc)
  exact feedPayload_eq_next.mpr ⟨stored b s, storeByte_clearResult b hc, .inl ⟨hi, hck⟩⟩

end Sys2Proof.Machine
end

section
/-! FEED on a sync byte and on a checksum byte (R71, R72, R76, R77). -/

namespace Sys2Proof.Machine

open Sys2Proof.Spec

theorem feed_waitSync1_sync {s : State} (hs : s.st = .waitSync1) :
    feed sync1 s = .next { s with res := none, idx := 0, name := none, st := .waitSync2 } := by
  rw [feed_waitSync1 _ hs]; rfl

theorem feed_waitSync1_noise {s : State} {b : Byte} (hs : s.st = .waitSync1) (hb : b ≠ sync1) :
    feed b s = .next { s with res := none, idx := 0, name := none } := by
  rw [feed_waitSync1 b hs, feedWaitSync1, if_neg hb, ← hs]; rfl

theorem feed_waitSync2_sync {s : State} (hs : s.st = .waitSync2) :
    feed sync2 s = .next { s with res := none, idx := 0, st := .header } := by
  rw [feed_waitSync2 _ hs]; rfl

theorem feed_waitSync2_loss {s : State} {b : Byte} (hs : s.st = .waitSync2) (hb : b ≠ sync2) :
    feed b s = .next (s.clearResult.drop (.syncLoss b)) := by
  rw [feed_waitSync2 b hs, feedWaitSync2, if_neg hb]

theorem feed_checksumA_good {s : State} (hs : s.st = .checksumA) :
    feed s.ckA s = .next { s with res := none, st := .checksumB } := by
  rw [feed_checksumA _ hs]; exact if_pos rfl

theorem feed_checksumA_bad {s : State} {b : Byte} (hs : s.st = .checksumA) (hb : b ≠ s.ckA) :
    feed b s = .next (afterMismatch .a s.ckA b s) := by
  rw [feed_checksumA b hs]; exact if_neg hb

theorem feed_checksumB_good {s : State} (hs : s.st = .checksumB) : feed s.ckB s = .next s.clearResult.emitName := by
  rw [feed_checksumB _ hs]; exact if_pos rfl

theorem feed_checksumB_bad {s : State} {b : Byte} (hs : s.st = .checksumB) (hb : b ≠ s.ckB) :
    feed b s = .next (afterMismatch .b s.ckB b s) := by
  rw [feed_checksumB b hs]; exact if_neg hb

theorem emitName_of_pending {s : State} {n : Nat} (h : s.name = some n) :
    s.emitName = { s with res := some n, st := .waitSync1, events := .emit n :: s.events } := by
  simp [State.emitName, h]

end Sys2Proof.Machine
end

section
/-! The statements about FEED, one per framer state (42_framer.md). -/

namespace Sys2Proof

open Sys2Proof.Machine Sys2Proof.Spec

/-- Settles O6: before the fourth byte the store is all; at the fourth the buffer holds the header, which the lookup
and then the guard decide on. -/
theorem feedInHeader : Obligations.FeedInHeader := fun b _ hs =>
  ⟨feed_header_byte b hs, fun _ _ _ hi h => feed_header_last b hs hi h⟩

/-- Settles O7: before the last byte the store is all; at the last the buffer holds the frame, whose checksum is taken. -/
theorem feedInPayload : Obligations.FeedInPayload := fun b _ hs hc =>
  ⟨fun hi => feed_payload_byte b hs hi hc, fun _ hi hl h => feed_payload_last b hs hi hc hl h⟩

/-- Settles O4: the rule of WaitSync1, whose two branches differ in the state only. -/
theorem feedInWaitSync1 : Obligations.FeedInWaitSync1 := by
  intro b s hs
  refine ⟨?sync, feed_waitSync1_noise hs⟩
  rintro rfl
  exact feed_waitSync1_sync hs

/-- Settles O5: the rule of WaitSync2; `B5` is a byte other than `62` like any. -/
theorem feedInWaitSync2 : Obligations.FeedInWaitSync2 := by
  intro b s hs
  refine ⟨?sync, feed_waitSync2_loss hs⟩
  rintro rfl
  exact feed_waitSync2_sync hs

/-- Settles O8: a match only moves on, a mismatch is counted and dropped. -/
theorem feedInChecksumA : Obligations.FeedInChecksumA := by
  intro b s hs
  refine ⟨?good, feed_checksumA_bad hs⟩
  rintro rfl
  exact feed_checksumA_good hs

/-- Settles O9: a match emits the pending name, a mismatch is counted and dropped. -/
theorem feedInChecksumB : Obligations.FeedInChecksumB := by
  intro b s hs
  refine ⟨?good, feed_checksumB_bad hs⟩
  rintro n rfl hn
  rw [exec_feed, feed_checksumB_good hs, emitName_of_pending (s := s.clearResult) hn]
  rfl

end Sys2Proof
end

section
/-! What IDLE and the consumer's read ports answer (R49, R60, R80 to R83). -/

namespace Sys2Proof.Machine

/-- A framer word with neither control bit set is IDLE's, whatever its byte (R49). -/
theorem decodeFramer_of_control_clear {w : BitVec 10} (hrst : w.getLsbD 9 = false) (hvalid : w.getLsbD 8 = false) :
    decodeFramer w = .idle := by
  simp only [decodeFramer, hrst, hvalid, Bool.false_eq_true, if_false]

theorem exec_idle (s : State) : exec .idle s = .next s := rfl

/-- `pkt_valid` and `pkt_name` are read off `res` (R17). -/
theorem exec_readResult (s : State) :
    exec .readResult s = .next { s with reading := some (.result s.res.isSome (s.res.getD 0)) } := rfl

theorem exec_readErr (s : State) : exec .readErr s = .next { s with reading := some (.errCount s.err) } := rfl

theorem exec_readCk (s : State) : exec .readCk s = .next { s with reading := some (.ckOut s.ceA s.ceB) } := rfl

theorem exec_readBuf (a : Nat) (s : State) :
    exec (.readBuf a) s = andThen (bufRead a s) fun v => .next { s with reading := some (.rdData v) } := rfl

end Sys2Proof.Machine
end

section
/-! The statements about IDLE and the read ports (43_interface_ops.md). -/

namespace Sys2Proof

open Sys2Proof.Machine Sys2Proof.Spec

/-- Settles O22: the decoder looks at the byte of a framer word only when `in_valid` is set. -/
theorem idleChangesNothing : Obligations.IdleChangesNothing :=
  ⟨fun _ hrst hvalid => decodeFramer_of_control_clear hrst hvalid, exec_idle⟩

/-- Settles O23: the outputs are functions of the registers, and `res` decides the two that READ_RESULT delivers. -/
theorem readPortsDeliver : Obligations.ReadPortsDeliver := by
  intro s
  refine ⟨fun n h => ?some, fun h => ?none, exec_readErr s, exec_readCk s⟩
  case some => rw [exec_readResult, h]; rfl
  case none => rw [exec_readResult, h]; rfl

/-- Settles O24: READ_BUF answers as the buffer's read does. -/
theorem readBufCases : Obligations.ReadBufCases := by
  intro a s
  rw [exec_readBuf]
  refine ⟨fun v ha hv => ?written, fun ha hv => ?unwritten, fun ha => ?outside⟩
  case written => rw [bufRead_of_written ha hv, andThen_next]
  case unwritten => rw [bufRead_of_unwritten ha hv, andThen_fault]
  case outside => rw [bufRead_of_ge ha, andThen_refused]

end Sys2Proof
end

section
/-! What a FEED that answers next has done, once for all later proofs: one case per FEED row (R50). -/

namespace Sys2Proof.Machine

open Sys2Proof.Spec

/-- The state a FEED of `b` ends in, by the row it falls under; a row that decides over stored bytes names them. -/
inductive FeedAnswer (b : Byte) (s : State) : State → Prop
  | sync (hs : s.st = .waitSync1) (hb : b = sync1) :
      FeedAnswer b s { s with res := none, idx := 0, name := none, st := .waitSync2 }
  | noise (hs : s.st = .waitSync1) (hb : b ≠ sync1) : FeedAnswer b s { s with res := none, idx := 0, name := none }
  | start (hs : s.st = .waitSync2) (hb : b = sync2) : FeedAnswer b s { s with res := none, idx := 0, st := .header }
  | syncLoss (hs : s.st = .waitSync2) (hb : b ≠ sync2) : FeedAnswer b s (s.clearResult.drop (.syncLoss b))
  | headerByte (hs : s.st = .header) (hi : s.idx ≠ 3) (hc : s.idx < s.cfg.bufCap) : FeedAnswer b s (stored b s)
  | headerLast (c i lo : Byte) (hs : s.st = .header) (hi : s.idx = 3) (h : BufHolds s [c, i, lo]) :
      FeedAnswer b s (afterHeader c i lo b s)
  | payloadByte (hs : s.st = .payload) (hi : s.idx + 1 ≠ 4 + s.len.toNat) (hc : s.idx < s.cfg.bufCap) :
      FeedAnswer b s (stored b s)
  | payloadLast (bs : List Byte) (hs : s.st = .payload) (hi : s.idx + 1 = 4 + s.len.toNat) (hc : s.idx < s.cfg.bufCap)
      (hl : bs.length = s.idx) (h : BufHolds s bs) : FeedAnswer b s (afterPayload bs b s)
  | ckAGood (hs : s.st = .checksumA) (hb : b = s.ckA) : FeedAnswer b s { s with res := none, st := .checksumB }
  | ckABad (hs : s.st = .checksumA) (hb : b ≠ s.ckA) : FeedAnswer b s (afterMismatch .a s.ckA b s)
  | ckBGood (hs : s.st = .checksumB) (hb : b = s.ckB) : FeedAnswer b s s.clearResult.emitName
  | ckBBad (hs : s.st = .checksumB) (hb : b ≠ s.ckB) : FeedAnswer b s (afterMismatch .b s.ckB b s)

theorem FeedAnswer.feed_eq {b : Byte} {s t : State} (h : FeedAnswer b s t) : feed b s = .next t := by
  cases h with
  | sync hs hb => exact hb ▸ feed_waitSync1_sync hs
  | noise hs hb => exact feed_waitSync1_noise hs hb
  | start hs hb => exact hb ▸ feed_waitSync2_sync hs
  | syncLoss hs hb => exact feed_waitSync2_loss hs hb
  | headerByte hs hi hc => exact feed_header_byte b hs hi hc
  | headerLast c i lo hs hi h => exact feed_header_last b hs hi h
  | payloadByte hs hi hc => exact feed_payload_byte b hs hi hc
  | payloadLast bs hs hi hc hl h => exact feed_payload_last b hs hi hc hl h
  | ckAGood hs hb => exact hb ▸ feed_checksumA_good hs
  | ckABad hs hb => exact feed_checksumA_bad hs hb
  | ckBGood hs hb => exact hb ▸ feed_checksumB_good hs
  | ckBBad hs hb => exact feed_checksumB_bad hs hb

theorem read_stored_other {s : State} {k : Nat} (b : Byte) (h : k ≠ s.idx) : (stored b s).buf.read k = s.buf.read k :=
  Memory.read_write_other s.buf s.idx k b h

/-- A header completed by the byte just stored had its first three bytes in the buffer. -/
theorem bufHolds_of_readHeader_stored {b : Byte} {s : State} {x : Byte × Byte × Half} (hi : s.idx = 3)
    (h : readHeader (stored b s) = .next x) : ∃ c i lo, BufHolds s [c, i, lo] := by
  obtain ⟨c, i, lo, _, hc, hid, hlo, -, -⟩ := readHeader_eq_next.mp h
  refine ⟨c, i, lo, fun k hk => ?_⟩
  have old (k : Nat) (v : Byte) (hk : k < 3) (hv : bufRead k (stored b s) = .next v) : s.buf.read k = some v :=
    (read_stored_other b (by omega)).symm.trans (bufRead_eq_next.mp hv).2
  match k, hk with
  | 0, _ => exact old 0 c (by decide) hc
  | 1, _ => exact old 1 i (by decide) hid
  | 2, _ => exact old 2 lo (by decide) hlo

/-- A payload completed by the byte just stored had all bytes before it in the buffer. -/
theorem bufHolds_of_bufReadRange_stored {b : Byte} {s : State} {n : Nat} {bytes : List Byte} (hi : s.idx + 1 = n)
    (h : bufReadRange 0 n (stored b s) = .next bytes) : ∃ bs : List Byte, bs.length = s.idx ∧ BufHolds s bs := by
  obtain ⟨hl, hr⟩ := bufReadRange_eq_next.mp h
  have hlen : (bytes.take s.idx).length = s.idx := by rw [List.length_take]; omega
  refine ⟨bytes.take s.idx, hlen, fun k hk => ?_⟩
  rw [hlen] at hk
  obtain ⟨-, hk'⟩ := hr k (by omega)
  rw [Nat.zero_add, read_stored_other b (Nat.ne_of_lt hk)] at hk'
  rw [hk', List.getElem?_take_of_lt hk]

theorem feed_answer_of_header {b : Byte} {s t : State} (hs : s.st = .header) (h : feed b s = .next t) :
    ∃ u, FeedAnswer b s u := by
  obtain ⟨u, hu, hk⟩ := feedHeader_eq_next.mp (feed_header b hs ▸ h)
  obtain ⟨hc, rfl⟩ := storeByte_eq_next.mp hu
  obtain ⟨hi, hk⟩ | ⟨hi, -⟩ := hk
  · have hi : s.idx = 3 := Nat.succ.inj hi
    obtain ⟨_, _, _, hr, -⟩ := completeHeader_eq_next.mp hk
    obtain ⟨c, i, lo, hold⟩ := bufHolds_of_readHeader_stored hi hr
    exact ⟨_, .headerLast c i lo hs hi hold⟩
  · exact ⟨_, .headerByte hs (fun he => hi (congrArg (· + 1) he)) hc⟩

theorem feed_answer_of_payload {b : Byte} {s t : State} (hs : s.st = .payload) (h : feed b s = .next t) :
    ∃ u, FeedAnswer b s u := by
  obtain ⟨u, hu, hk⟩ := feedPayload_eq_next.mp (feed_payload b hs ▸ h)
  obtain ⟨hc, rfl⟩ := storeByte_eq_next.mp hu
  obtain ⟨hi, hk⟩ | ⟨hi, -⟩ := hk
  · obtain ⟨_, hr, -⟩ := enterChecksum_eq_next.mp hk
    obtain ⟨bs, hl, hold⟩ := bufHolds_of_bufReadRange_stored (b := b) hi hr
    exact ⟨_, .payloadLast bs hs hi hc hl hold⟩
  · exact ⟨_, .payloadByte hs hi hc⟩

/-- Where FEED stores no byte it always completes. -/
theorem feed_answer_of_not_storing (b : Byte) {s : State} (hh : s.st ≠ .header) (hp : s.st ≠ .payload) :
    ∃ u, FeedAnswer b s u := by
  cases hs : s.st with
  | waitSync1 => exact (Decidable.em (b = sync1)).elim (fun hb => ⟨_, .sync hs hb⟩) fun hb => ⟨_, .noise hs hb⟩
  | waitSync2 => exact (Decidable.em (b = sync2)).elim (fun hb => ⟨_, .start hs hb⟩) fun hb => ⟨_, .syncLoss hs hb⟩
  | header => exact absurd hs hh
  | payload => exact absurd hs hp
  | checksumA => exact (Decidable.em (b = s.ckA)).elim (fun hb => ⟨_, .ckAGood hs hb⟩) fun hb => ⟨_, .ckABad hs hb⟩
  | checksumB => exact (Decidable.em (b = s.ckB)).elim (fun hb => ⟨_, .ckBGood hs hb⟩) fun hb => ⟨_, .ckBBad hs hb⟩

/-- A FEED answers next exactly by one of its rows. -/
theorem feed_eq_next {b : Byte} {s t : State} : feed b s = .next t ↔ FeedAnswer b s t := by
  refine ⟨fun h => ?_, FeedAnswer.feed_eq⟩
  suffices hu : ∃ u, FeedAnswer b s u by
    obtain ⟨u, hu⟩ := hu
    exact Host.Outcome.next.inj (hu.feed_eq.symm.trans h) ▸ hu
  by_cases hh : s.st = .header
  · exact feed_answer_of_header hh h
  by_cases hp : s.st = .payload
  · exact feed_answer_of_payload hp h
  · exact feed_answer_of_not_storing b hh hp

/-! What the fourth header byte decides (R73, R74), by the matcher's answer. -/

/-- Whatever is decided, the header byte is stored and nothing outside the framer is written. -/
theorem afterHeader_eq_stored_with (c i lo b : Byte) (s : State) :
    afterHeader c i lo b s = { stored b s with
      st := (afterHeader c i lo b s).st, events := (afterHeader c i lo b s).events,
      name := (afterHeader c i lo b s).name, len := (afterHeader c i lo b s).len,
      ckA := (afterHeader c i lo b s).ckA, ckB := (afterHeader c i lo b s).ckB } := by
  simp only [afterHeader]
  split
  next => rfl
  next =>
    split
    next => rfl
    next => split <;> rfl

end Sys2Proof.Machine
end

section
/-! The resolved length (R65), and what the fourth header byte decides (R73, R74). -/

namespace Sys2Proof.Machine

open Sys2Proof.Spec

/-- A match resolves to the wire length: the declared length is that length or the sentinel, which stands for it. -/
theorem lookup_eq_some_bounds {reg : List Entry} {c i : Byte} {w r : Half} {n : Nat}
    (h : lookup reg c i w = some (n, r)) : r = w ∧ n < reg.length := by
  rw [lookup_eq_find?, Option.map_eq_some_iff] at h
  obtain ⟨⟨e, k⟩, he, hp⟩ := h
  obtain ⟨rfl, rfl⟩ := Prod.mk.inj hp
  obtain ⟨hk, ⟨-, -, hd⟩, -⟩ := find?_zipIdx_eq_some.mp he
  refine ⟨?_, (List.getElem?_eq_some_iff.mp hk).1⟩
  unfold resolvedLength
  split
  next => rfl
  next h0 => exact hd.resolve_right h0

/-- The four ways a complete header goes on. -/
inductive HeaderAnswer (c i lo b : Byte) (s : State) : State → Prop
  | unknown (hk : lookup s.cfg.registry c i (wireLength lo b) = none) :
      HeaderAnswer c i lo b s ((stored b s).drop (.unknownSignature c i (wireLength lo b)))
  | overflow (n : Nat) (hk : lookup s.cfg.registry c i (wireLength lo b) = some (n, wireLength lo b))
      (hc : s.cfg.bufCap < (wireLength lo b).toNat + 4) :
      HeaderAnswer c i lo b s ((stored b s).drop (.overflow n (wireLength lo b)))
  | noPayload (n : Nat) (hk : lookup s.cfg.registry c i (wireLength lo b) = some (n, wireLength lo b))
      (h0 : wireLength lo b = 0) :
      HeaderAnswer c i lo b s { stored b s with
        st := .checksumA, name := some n, len := 0,
        ckA := (checksum [c, i, lo, b]).1, ckB := (checksum [c, i, lo, b]).2 }
  | payload (n : Nat) (hk : lookup s.cfg.registry c i (wireLength lo b) = some (n, wireLength lo b))
      (hc : 4 + (wireLength lo b).toNat ≤ s.cfg.bufCap) (h0 : wireLength lo b ≠ 0) :
      HeaderAnswer c i lo b s { stored b s with st := .payload, name := some n, len := wireLength lo b }

theorem afterHeader_answer (c i lo b : Byte) (s : State) : HeaderAnswer c i lo b s (afterHeader c i lo b s) := by
  simp only [afterHeader, ← wireLength_eq_ofNat]
  split
  next hk => exact .unknown hk
  next n r hk =>
    obtain ⟨rfl, -⟩ := lookup_eq_some_bounds hk
    split
    next hc => exact .overflow n hk hc
    next hc =>
      split
      next h0 => exact .noPayload n hk h0
      next h0 => exact .payload n hk (by omega) h0

end Sys2Proof.Machine
end

section
/-! The invariant (R26): its row for each framer state, and that every operation keeps it. -/

namespace Sys2Proof.Machine

open Sys2Proof.Spec

theorem framerInv_waitSync1 {s : State} (hs : s.st = .waitSync1) : FramerInv s ↔ s.idx ≤ s.cfg.bufCap := by
  simp only [FramerInv, hs]

theorem framerInv_waitSync2 {s : State} (hs : s.st = .waitSync2) : FramerInv s ↔ s.idx = 0 ∧ s.name = none := by
  simp only [FramerInv, hs]

theorem framerInv_header {s : State} (hs : s.st = .header) :
    FramerInv s ↔ s.idx ≤ 3 ∧ s.name = none ∧ ∃ bs : List Byte, bs.length = s.idx ∧ BufHolds s bs := by
  simp only [FramerInv, hs]

theorem framerInv_payload {s : State} (hs : s.st = .payload) :
    FramerInv s ↔ ∃ n bs, FrameInProgress s n bs ∧ 1 ≤ s.len.toNat ∧ s.idx < 4 + s.len.toNat := by
  simp only [FramerInv, hs]

theorem framerInv_checksum {s : State} (hs : s.st = .checksumA ∨ s.st = .checksumB) :
    FramerInv s ↔ ∃ n bs, FrameInProgress s n bs ∧ s.idx = 4 + s.len.toNat ∧ (s.ckA, s.ckB) = checksum bs := by
  rcases hs with hs | hs <;> simp only [FramerInv, hs]

/-- A frame in progress is a matter of `name`, `len`, `idx`, the buffer and the parameters. -/
theorem FrameInProgress.congr {s t : State} {n : Nat} {bs : List Byte} (h : FrameInProgress s n bs)
    (hn : t.name = s.name) (hl : t.len = s.len) (hi : t.idx = s.idx) (hb : t.buf = s.buf) (hc : t.cfg = s.cfg) :
    FrameInProgress t n bs where
  name_eq := hn.trans h.name_eq
  fits := by rw [hl, hc]; exact h.fits
  stored := (bufHolds_congr hb).mpr h.stored
  count := h.count.trans hi.symm
  header := by rw [hl, hc]; exact h.header

theorem FrameInProgress.stored_byte {s : State} {n : Nat} {bs : List Byte} (b : Byte) (h : FrameInProgress s n bs) :
    FrameInProgress (Spec.stored b s) n (bs ++ [b]) where
  name_eq := h.name_eq
  fits := h.fits
  stored := bufHolds_stored b h.count h.stored
  count := by rw [List.length_append, h.count]; rfl
  header := by
    obtain ⟨c, i, lo, hi, p, rfl, hk⟩ := h.header
    exact ⟨c, i, lo, hi, p ++ [b], rfl, hk⟩

/-- The buffer decides which bytes of a given number it holds. -/
theorem bufHolds_unique {s : State} {bs cs : List Byte} (hl : bs.length = cs.length) (hb : BufHolds s bs)
    (hc : BufHolds s cs) : bs = cs := by
  refine List.ext_getElem? fun k => ?_
  by_cases hk : k < bs.length
  · exact (hb k hk).symm.trans (hc k (hl ▸ hk))
  · rw [List.getElem?_eq_none (by omega), List.getElem?_eq_none (by omega)]

/-- A header that was admitted starts a frame in progress. -/
theorem frameInProgress_of_header {s : State} {c i lo b : Byte} {n : Nat} (hi : s.idx = 3) (h : BufHolds s [c, i, lo])
    (hk : lookup s.cfg.registry c i (wireLength lo b) = some (n, wireLength lo b))
    (hc : 4 + (wireLength lo b).toNat ≤ s.cfg.bufCap) :
    FrameInProgress { stored b s with name := some n, len := wireLength lo b } n [c, i, lo, b] where
  name_eq := rfl
  fits := hc
  stored := bufHolds_stored (bs := [c, i, lo]) b hi.symm h
  count := congrArg (· + 1) hi.symm
  header := ⟨c, i, lo, b, [], rfl, hk⟩

theorem FrameInProgress.name_lt {s : State} {n : Nat} {bs : List Byte} (h : FrameInProgress s n bs) :
    n < s.cfg.entries := by
  obtain ⟨_, _, _, _, _, -, hk⟩ := h.header
  exact (lookup_eq_some_bounds hk).2

/-- A FEED without a result that leaves the buffer has only R26's row left to show. -/
theorem Inv.of_same_buf {s t : State} (h : Inv s) (hb : t.buf = s.buf) (hc : t.cfg = s.cfg)
    (he : t.err < 2 ^ s.cfg.errW) (hr : t.res = none) (hf : FramerInv t) : Inv t where
  canonical := hb ▸ h.canonical
  within := by rw [hb, hc]; exact h.within
  err_lt := hc ▸ he
  result := by simp [hr]
  framer := hf

/-- So has a FEED that stores its byte inside the buffer. -/
theorem Inv.of_stored {s t : State} {b : Byte} (h : Inv s) (hi : s.idx < s.cfg.bufCap) (hb : t.buf = (stored b s).buf)
    (hc : t.cfg = s.cfg) (he : t.err = s.err) (hr : t.res = none) (hf : FramerInv t) : Inv t where
  canonical := hb ▸ Memory.wf_write s.buf s.idx b h.canonical
  within := by rw [hb, hc]; exact Memory.within_write _ _ _ _ hi h.within
  err_lt := by rw [he, hc]; exact h.err_lt
  result := by simp [hr]
  framer := hf

theorem errCount_lt (cfg : Config) (n : Nat) : n % 2 ^ cfg.errW < 2 ^ cfg.errW := Nat.mod_lt _ (Nat.two_pow_pos _)

theorem FrameInProgress.idx_le {s : State} {n : Nat} {bs : List Byte} (h : FrameInProgress s n bs)
    (hi : s.idx = 4 + s.len.toNat) : s.idx ≤ s.cfg.bufCap := hi ▸ h.fits

theorem afterHeader_keeps_inv {s : State} {c i lo : Byte} (b : Byte) (h : Inv s) (hi : s.idx = 3)
    (hold : BufHolds s [c, i, lo]) : Inv (afterHeader c i lo b s) := by
  have hcap : 4 ≤ s.cfg.bufCap := s.cfg.bufCap_min
  have hidx : (stored b s).idx ≤ s.cfg.bufCap := Nat.le_trans (Nat.le_of_eq (congrArg (· + 1) hi)) hcap
  have store {t : State} := Inv.of_stored (t := t) (b := b) h (hi ▸ hcap)
  generalize ht : afterHeader c i lo b s = t
  obtain hk | ⟨n, hk, hc⟩ | ⟨n, hk, h0⟩ | ⟨n, hk, hc, h0⟩ := ht ▸ afterHeader_answer c i lo b s
  case unknown => exact store rfl rfl rfl rfl hidx
  case overflow => exact store rfl rfl rfl rfl hidx
  case noPayload =>
    have hp := frameInProgress_of_header hi hold hk (by rw [h0]; exact hcap)
    refine store rfl rfl rfl rfl ⟨n, [c, i, lo, b], ?_, congrArg (· + 1) hi, rfl⟩
    exact hp.congr rfl h0.symm rfl rfl rfl
  case payload =>
    have hp := frameInProgress_of_header hi hold hk hc
    have hpos : 0 < (wireLength lo b).toNat := Nat.pos_of_ne_zero fun hz => h0 (BitVec.eq_of_toNat_eq hz)
    have hlt : s.idx + 1 < 4 + (wireLength lo b).toNat := by omega
    exact store rfl rfl rfl rfl ⟨n, [c, i, lo, b], hp.congr rfl rfl rfl rfl rfl, hpos, hlt⟩

theorem feed_keeps_inv {b : Byte} {s t : State} (h : Inv s) (hf : FeedAnswer b s t) : Inv t := by
  have hcap : 4 ≤ s.cfg.bufCap := s.cfg.bufCap_min
  cases hf with
  | sync hs hb => exact h.of_same_buf rfl rfl h.err_lt rfl ⟨rfl, rfl⟩
  | noise hs hb =>
    refine h.of_same_buf rfl rfl h.err_lt rfl ?_
    exact (framerInv_waitSync1 (s := { s with res := none, idx := 0, name := none }) hs).mpr (Nat.zero_le _)
  | start hs hb =>
    obtain ⟨-, hn⟩ := (framerInv_waitSync2 hs).mp h.framer
    exact h.of_same_buf rfl rfl h.err_lt rfl ⟨Nat.zero_le _, hn, [], rfl, fun k hk => absurd hk (Nat.not_lt_zero k)⟩
  | syncLoss hs hb =>
    obtain ⟨hi, -⟩ := (framerInv_waitSync2 hs).mp h.framer
    exact h.of_same_buf rfl rfl h.err_lt rfl (Nat.le_trans (Nat.le_of_eq hi) (Nat.zero_le _))
  | headerByte hs hi hc =>
    obtain ⟨h3, hn, bs, hl, hold⟩ := (framerInv_header hs).mp h.framer
    refine h.of_stored hc rfl rfl rfl rfl ((framerInv_header (s := stored b s) hs).mpr
      ⟨Nat.lt_of_le_of_ne h3 hi, hn, bs ++ [b], ?_, ?_⟩)
    · rw [List.length_append, hl]; rfl
    · exact bufHolds_stored b hl hold
  | headerLast c i lo hs hi hold => exact afterHeader_keeps_inv b h hi hold
  | payloadByte hs hi hc =>
    obtain ⟨n, bs, hp, h1, hlt⟩ := (framerInv_payload hs).mp h.framer
    exact h.of_stored hc rfl rfl rfl rfl
      ((framerInv_payload (s := stored b s) hs).mpr ⟨n, bs ++ [b], hp.stored_byte b, h1, Nat.lt_of_le_of_ne hlt hi⟩)
  | payloadLast bs hs hi hc hl hold =>
    obtain ⟨n, bs', hp, -, -⟩ := (framerInv_payload hs).mp h.framer
    obtain rfl : bs' = bs := bufHolds_unique (hp.count.trans hl.symm) hp.stored hold
    exact h.of_stored hc rfl rfl rfl rfl
      ⟨n, bs' ++ [b], (hp.stored_byte b).congr rfl rfl rfl rfl rfl, hi, rfl⟩
  | ckAGood hs hb =>
    obtain ⟨n, bs, hp, hi, hck⟩ := (framerInv_checksum (.inl hs)).mp h.framer
    exact h.of_same_buf rfl rfl h.err_lt rfl ⟨n, bs, hp.congr rfl rfl rfl rfl rfl, hi, hck⟩
  | ckABad hs hb =>
    obtain ⟨n, bs, hp, hi, -⟩ := (framerInv_checksum (.inl hs)).mp h.framer
    exact h.of_same_buf rfl rfl (errCount_lt _ _) rfl (hp.idx_le hi)
  | ckBGood hs hb =>
    obtain ⟨n, bs, hp, hi, -⟩ := (framerInv_checksum (.inr hs)).mp h.framer
    refine ⟨h.canonical, h.within, h.err_lt, fun m hm => ⟨rfl, ?_⟩, hp.idx_le hi⟩
    obtain rfl := Option.some.inj (hp.name_eq.symm.trans hm)
    exact hp.name_lt
  | ckBBad hs hb =>
    obtain ⟨n, bs, hp, hi, -⟩ := (framerInv_checksum (.inr hs)).mp h.framer
    exact h.of_same_buf rfl rfl (errCount_lt _ _) rfl (hp.idx_le hi)

end Sys2Proof.Machine
end

section
/-! The rest of the machine around the framer: what no FEED reads or writes. -/

namespace Sys2Proof.Machine

open Sys2Proof.Spec

/-- The state with another engine, consumer and queue around the same framer. -/
def State.withSide (s : State) (a b : Byte) (r : Option Reading) (q : List PortWord) : State :=
  { s with ceA := a, ceB := b, reading := r, input := q }

@[simp] theorem State.withSide_cfg (s : State) (a b : Byte) (r : Option Reading) (q : List PortWord) :
    (s.withSide a b r q).cfg = s.cfg := rfl

theorem exec_eq_withSide_of_not_reset_not_feed {i : Instr} {s t : State} (hr : i ≠ .reset)
    (hf : ∀ b, i.base ≠ .feed b) (h : exec i s = .next t) : t = s.withSide t.ceA t.ceB t.reading s.input :=
  exec_frame_of_not_reset_not_feed hr hf h

theorem fetch_eq_withSide (s : State) : (fetch s).2 = s.withSide s.ceA s.ceB s.reading (fetch s).2.input := by
  cases h : s.input with
  | nil => rw [fetch_nil h]; rfl
  | cons p ps => rw [fetch_cons h]; rfl

theorem Inv.withSide {s : State} (h : Inv s) (a b : Byte) (r : Option Reading) (q : List PortWord) :
    Inv (s.withSide a b r q) where
  canonical := h.canonical
  within := h.within
  err_lt := h.err_lt
  result := h.result
  framer := by
    have frame {n : Nat} {bs : List Byte} (hp : FrameInProgress s n bs) : FrameInProgress (s.withSide a b r q) n bs :=
      hp.congr rfl rfl rfl rfl rfl
    cases hs : s.st with
    | waitSync1 => exact (framerInv_waitSync1 (s := s.withSide a b r q) hs).mpr ((framerInv_waitSync1 hs).mp h.framer)
    | waitSync2 => exact (framerInv_waitSync2 (s := s.withSide a b r q) hs).mpr ((framerInv_waitSync2 hs).mp h.framer)
    | header => exact (framerInv_header (s := s.withSide a b r q) hs).mpr ((framerInv_header hs).mp h.framer)
    | payload =>
      obtain ⟨n, bs, hp, hrest⟩ := (framerInv_payload hs).mp h.framer
      exact (framerInv_payload (s := s.withSide a b r q) hs).mpr ⟨n, bs, frame hp, hrest⟩
    | checksumA =>
      obtain ⟨n, bs, hp, hrest⟩ := (framerInv_checksum (.inl hs)).mp h.framer
      exact (framerInv_checksum (s := s.withSide a b r q) (.inl hs)).mpr ⟨n, bs, frame hp, hrest⟩
    | checksumB =>
      obtain ⟨n, bs, hp, hrest⟩ := (framerInv_checksum (.inr hs)).mp h.framer
      exact (framerInv_checksum (s := s.withSide a b r q) (.inr hs)).mpr ⟨n, bs, frame hp, hrest⟩

theorem fetch_keeps_inv {s : State} (h : Inv s) : Inv (fetch s).2 := by
  rw [fetch_eq_withSide]
  exact h.withSide ..

theorem applyReset_inv (s : State) : Inv s.applyReset where
  canonical := rfl
  within := rfl
  err_lt := Nat.two_pow_pos _
  result := nofun
  framer := Nat.zero_le _

theorem exec_keeps_inv {i : Instr} {s t : State} (h : Inv s) (he : exec i s = .next t) : Inv t := by
  by_cases hr : i = .reset
  · subst hr
    exact Host.Outcome.next.inj he ▸ applyReset_inv s
  by_cases hf : ∃ b, i.base = .feed b
  · obtain ⟨b, hb⟩ := hf
    exact feed_keeps_inv h (feed_eq_next.mp (exec_of_base_feed hb s ▸ he))
  · rw [exec_eq_withSide_of_not_reset_not_feed hr (not_exists.mp hf) he]
    exact h.withSide ..

end Sys2Proof.Machine
end

section
/-! In a state of a run every FEED completes, and an operation stops only as READ_BUF does. -/

namespace Sys2Proof.Machine

open Sys2Proof.Spec

theorem bufHolds_three {s : State} {bs : List Byte} (hl : bs.length = 3) (h : BufHolds s bs) :
    ∃ c i lo, BufHolds s [c, i, lo] := by
  match bs, hl with
  | [c, i, lo], _ => exact ⟨c, i, lo, h⟩

theorem feed_answers {s : State} (b : Byte) (h : Inv s) : ∃ t, FeedAnswer b s t := by
  by_cases hs : s.st = .header
  · obtain ⟨h3, -, bs, hl, hold⟩ := (framerInv_header hs).mp h.framer
    have hcap : 4 ≤ s.cfg.bufCap := s.cfg.bufCap_min
    by_cases hi : s.idx = 3
    · obtain ⟨c, i, lo, hold⟩ := bufHolds_three (hl.trans hi) hold
      exact ⟨_, .headerLast c i lo hs hi hold⟩
    · exact ⟨_, .headerByte hs hi (by omega)⟩
  by_cases hs' : s.st = .payload
  · obtain ⟨n, bs, hp, -, hlt⟩ := (framerInv_payload hs').mp h.framer
    have hc : s.idx < s.cfg.bufCap := Nat.lt_of_lt_of_le hlt hp.fits
    by_cases hi : s.idx + 1 = 4 + s.len.toNat
    · exact ⟨_, .payloadLast bs hs' hi hc hp.count hp.stored⟩
    · exact ⟨_, .payloadByte hs' hi hc⟩
  · exact feed_answer_of_not_storing b hs hs'

/-- The first act of a FEED clears the result, and only a match in ChecksumB gives one again (R70). -/
theorem FeedAnswer.res_eq_none {b : Byte} {s t : State} (h : FeedAnswer b s t) (hs : s.st ≠ .checksumB ∨ b ≠ s.ckB) :
    t.res = none := by
  cases h with
  | ckBGood hst hb => exact (hs.elim (absurd hst) (absurd hb))
  | headerLast c i lo => rw [afterHeader_eq_stored_with]; rfl
  | sync | noise | start | syncLoss | headerByte | payloadByte | payloadLast | ckAGood | ckABad | ckBBad => rfl

/-- An operation that is no FEED and no READ_BUF always completes. -/
theorem exec_completes {i : Instr} (hf : ∀ b, i.base ≠ .feed b) (hb : ∀ a, i ≠ .readBuf a) (s : State) :
    ∃ t, exec i s = .next t := by
  cases i with
  | readBuf a => exact absurd rfl (hb a)
  | reset | idle | ckClear | ckAccum | ckIdle | readResult | readErr | readCk | lookup
  | sigFixV7 | sigFixV8 | sigTimePulseCfg | sigAck | sigNak | sigSatelliteInfo | sigGnssEnableCfg => exact ⟨_, rfl⟩
  | feed | feedWaitSync1Sync1 | feedWaitSync1Noise | feedWaitSync2Sync2 | feedWaitSync2SyncLoss
  | feedHeaderByte | feedHeaderLast | feedPayloadByte | feedPayloadLast
  | feedChecksumAGood | feedChecksumABad | feedChecksumBGood | feedChecksumBBad => exact absurd rfl (hf _)

theorem decodeFramer_ne_readBuf (w : BitVec 10) (a : Nat) : decodeFramer w ≠ .readBuf a := by
  unfold decodeFramer
  split
  · nofun
  · split <;> nofun

theorem decodeChecksum_ne_readBuf (w : BitVec 10) (a : Nat) : decodeChecksum w ≠ .readBuf a := by
  unfold decodeChecksum
  split
  · nofun
  · split <;> nofun

theorem decode_eq_readBuf {p : PortWord} {a : Nat} : decode p = .readBuf a ↔ p = .readBuf a := by
  refine ⟨fun h => ?_, fun h => h ▸ rfl⟩
  cases p with
  | framer w => exact absurd h (decodeFramer_ne_readBuf w a)
  | checksum w => exact absurd h (decodeChecksum_ne_readBuf w a)
  | readBuf a' => exact congrArg _ (Instr.readBuf.inj h)
  | readResult | readErr | readCk | lookup => cases h

theorem exec_readBuf_cases (a : Nat) (s : State) : (∃ t, exec (.readBuf a) s = .next t) ∨
    (s.cfg.bufCap ≤ a ∧ exec (.readBuf a) s = .refused (.bufAddressOutOfRange a)) ∨
    (a < s.cfg.bufCap ∧ s.buf.read a = none ∧ exec (.readBuf a) s = .fault (.readUnwritten a)) := by
  rw [exec_readBuf]
  by_cases ha : a < s.cfg.bufCap
  · cases hv : s.buf.read a with
    | none => exact .inr (.inr ⟨ha, rfl, by rw [bufRead_of_unwritten ha hv, andThen_fault]⟩)
    | some v => exact .inl ⟨_, by rw [bufRead_of_written ha hv, andThen_next]⟩
  · exact .inr (.inl ⟨Nat.le_of_not_lt ha, by rw [bufRead_of_ge (Nat.le_of_not_lt ha), andThen_refused]⟩)

end Sys2Proof.Machine
end

section
/-! How far the framer is from WaitSync1 (R92). -/

namespace Sys2Proof.Machine

open Sys2Proof.Spec

/-- A bound on the FEEDs until the framer is back in WaitSync1, in a state of a run. -/
def State.feedsToSync (s : State) : Nat :=
  match s.st with
  | .waitSync1 => 0
  | .waitSync2 => s.cfg.bufCap + 3
  | .header    => s.cfg.bufCap + 2 - s.idx
  | .payload   => 4 + s.len.toNat - s.idx + 2
  | .checksumA => 2
  | .checksumB => 1

theorem feedsToSync_waitSync1 {s : State} (hs : s.st = .waitSync1) : s.feedsToSync = 0 := by
  simp only [State.feedsToSync, hs]

theorem feedsToSync_waitSync2 {s : State} (hs : s.st = .waitSync2) : s.feedsToSync = s.cfg.bufCap + 3 := by
  simp only [State.feedsToSync, hs]

theorem feedsToSync_header {s : State} (hs : s.st = .header) : s.feedsToSync = s.cfg.bufCap + 2 - s.idx := by
  simp only [State.feedsToSync, hs]

theorem feedsToSync_payload {s : State} (hs : s.st = .payload) : s.feedsToSync = 4 + s.len.toNat - s.idx + 2 := by
  simp only [State.feedsToSync, hs]

theorem feedsToSync_checksumA {s : State} (hs : s.st = .checksumA) : s.feedsToSync = 2 := by
  simp only [State.feedsToSync, hs]

theorem feedsToSync_checksumB {s : State} (hs : s.st = .checksumB) : s.feedsToSync = 1 := by
  simp only [State.feedsToSync, hs]

theorem feedsToSync_afterHeader_lt {s : State} (c i lo b : Byte) (hi : s.idx = 3) :
    (afterHeader c i lo b s).feedsToSync < s.cfg.bufCap + 2 - s.idx := by
  have hcap : 4 ≤ s.cfg.bufCap := s.cfg.bufCap_min
  generalize ht : afterHeader c i lo b s = t
  obtain hk | ⟨n, hk, hc⟩ | ⟨n, hk, h0⟩ | ⟨n, hk, hc, h0⟩ := ht ▸ afterHeader_answer c i lo b s
  case unknown => rw [feedsToSync_waitSync1 rfl]; omega
  case overflow => rw [feedsToSync_waitSync1 rfl]; omega
  case noPayload => rw [feedsToSync_checksumA rfl]; omega
  case payload =>
    rw [feedsToSync_payload rfl]
    show 4 + (wireLength lo b).toNat - (s.idx + 1) + 2 < _
    omega

/-- Outside WaitSync1 every FEED comes nearer to it. -/
theorem FeedAnswer.feedsToSync_lt {b : Byte} {s t : State} (h : Inv s) (hf : FeedAnswer b s t)
    (hs : s.st ≠ .waitSync1) : t.feedsToSync < s.feedsToSync := by
  cases hf with
  | sync hst hb => exact absurd hst hs
  | noise hst hb => exact absurd hst hs
  | start hst hb =>
    rw [feedsToSync_waitSync2 hst, feedsToSync_header rfl]
    exact Nat.lt_succ_self _
  | syncLoss hst hb =>
    rw [feedsToSync_waitSync2 hst, feedsToSync_waitSync1 rfl]
    exact Nat.succ_pos _
  | headerByte hst hi hc =>
    rw [feedsToSync_header hst, feedsToSync_header (s := stored b s) hst]
    show s.cfg.bufCap + 2 - (s.idx + 1) < _
    omega
  | headerLast c i lo hst hi hold =>
    rw [feedsToSync_header hst]
    exact feedsToSync_afterHeader_lt c i lo b hi
  | payloadByte hst hi hc =>
    obtain ⟨n, bs, -, -, hlt⟩ := (framerInv_payload hst).mp h.framer
    rw [feedsToSync_payload hst, feedsToSync_payload (s := stored b s) hst]
    show 4 + s.len.toNat - (s.idx + 1) + 2 < _
    omega
  | payloadLast bs hst hi hc hl hold =>
    rw [feedsToSync_payload hst, feedsToSync_checksumA rfl]
    omega
  | ckAGood hst hb =>
    rw [feedsToSync_checksumA hst, feedsToSync_checksumB rfl]
    exact Nat.lt_succ_self _
  | ckABad hst hb =>
    rw [feedsToSync_checksumA hst, feedsToSync_waitSync1 rfl]
    exact Nat.two_pos
  | ckBGood hst hb =>
    rw [feedsToSync_checksumB hst, feedsToSync_waitSync1 rfl]
    exact Nat.one_pos
  | ckBBad hst hb =>
    rw [feedsToSync_checksumB hst, feedsToSync_waitSync1 rfl]
    exact Nat.one_pos

theorem feedsToSync_le {s : State} (h : Inv s) : s.feedsToSync ≤ s.cfg.bufCap + 3 := by
  have hcap : 4 ≤ s.cfg.bufCap := s.cfg.bufCap_min
  cases hs : s.st with
  | waitSync1 => rw [feedsToSync_waitSync1 hs]; omega
  | waitSync2 => exact Nat.le_of_eq (feedsToSync_waitSync2 hs)
  | header => rw [feedsToSync_header hs]; omega
  | payload =>
    obtain ⟨n, bs, hp, -, -⟩ := (framerInv_payload hs).mp h.framer
    have hfits := hp.fits
    obtain ⟨_, _, _, _, _, rfl, -⟩ := hp.header
    have hidx : 4 ≤ s.idx := hp.count ▸ Nat.le_add_left 4 _
    rw [feedsToSync_payload hs]
    omega
  | checksumA => rw [feedsToSync_checksumA hs]; omega
  | checksumB => rw [feedsToSync_checksumB hs]; omega

theorem execAll_feeds_cons {b : Byte} {s t : State} (bs : List Byte) (h : feed b s = .next t) :
    execAll (feeds (b :: bs)) s = execAll (feeds bs) t := by
  show andThen (feed b s) (execAll (feeds bs)) = _
  rw [h, andThen_next]

/-- As many FEEDs as `feedsToSync` says reach WaitSync1 on their way, whatever the bytes. -/
theorem feeds_reach_waitSync1 {bs : List Byte} : ∀ {s : State}, Inv s → s.feedsToSync ≤ bs.length →
    ∃ k t, k ≤ bs.length ∧ execAll (feeds (bs.take k)) s = .next t ∧ t.st = .waitSync1 := by
  induction bs with
  | nil =>
    intro s h hd
    refine ⟨0, s, Nat.le_refl 0, rfl, Decidable.byContradiction fun hs => ?_⟩
    obtain ⟨t, ht⟩ := feed_answers 0 h
    exact Nat.not_lt_zero _ (Nat.lt_of_lt_of_le (ht.feedsToSync_lt h hs) hd)
  | cons b bs ih =>
    intro s h hd
    by_cases hs : s.st = .waitSync1
    · exact ⟨0, s, Nat.zero_le _, rfl, hs⟩
    obtain ⟨t, ht⟩ := feed_answers b h
    have hlt : t.feedsToSync < bs.length + 1 := Nat.lt_of_lt_of_le (ht.feedsToSync_lt h hs) hd
    obtain ⟨k, u, hk, hu, hst⟩ := ih (feed_keeps_inv h ht) (Nat.le_of_lt_succ hlt)
    refine ⟨k + 1, u, Nat.succ_le_succ hk, ?_, hst⟩
    rw [List.take_succ_cons, execAll_feeds_cons _ ht.feed_eq]
    exact hu

end Sys2Proof.Machine
end

section
/-! The statements about the invariant (10_state.md section 6, 60_exceptions.md). -/

namespace Sys2Proof

open Sys2Proof.Machine Sys2Proof.Spec

/-- Settles O38: taking a word leaves the framer, and then the operation keeps the invariant: a FEED row by row, RESET
by its values, and the others because they write around the framer only. -/
theorem stepKeepsInvariant : Obligations.StepKeepsInvariant := fun _ _ h hstep =>
  exec_keeps_inv (fetch_keeps_inv h) hstep

/-- Settles O37: the state after reset is a state just reset. -/
theorem resetSatisfiesInvariant : Obligations.ResetSatisfiesInvariant := applyReset_inv State.reset

/-- Settles O39: R26's row gives the stored bytes and the room a FEED needs. -/
theorem feedAlwaysCompletes : Obligations.FeedAlwaysCompletes := by
  intro b s h
  obtain ⟨t, ht⟩ := feed_answers b h
  exact ⟨t, ht.feed_eq, fun hs => ht.res_eq_none (.inl hs), fun _ hb => ht.res_eq_none (.inr hb)⟩

/-- Settles O40: only READ_BUF and FEED can stop, and a FEED of a run does not. -/
theorem stepStopsOnlyOnBadRead : Obligations.StepStopsOnlyOnBadRead := by
  intro s h
  unfold step
  by_cases hb : ∃ a, decode (fetch s).1 = .readBuf a
  · obtain ⟨a, ha⟩ := hb
    cases hin : s.input with
    | nil =>
      rw [fetch_nil hin] at ha
      exact absurd (decode_eq_readBuf.mp ha) nofun
    | cons p ps =>
      rw [fetch_cons hin] at ha ⊢
      obtain rfl := decode_eq_readBuf.mp ha
      exact (exec_readBuf_cases a { s with input := ps }).imp_right fun hstop => ⟨a, ps, rfl, hstop⟩
  by_cases hf : ∃ b, (decode (fetch s).1).base = .feed b
  · obtain ⟨b, hbase⟩ := hf
    obtain ⟨t, ht⟩ := feed_answers b (fetch_keeps_inv h)
    exact .inl ⟨t, (exec_of_base_feed hbase _).trans ht.feed_eq⟩
  · exact .inl (exec_completes (not_exists.mp hf) (not_exists.mp hb) _)

/-- Settles O44: every FEED outside WaitSync1 lowers a bound that is at most `BUF_CAP + 3`. -/
theorem framerReturnsToSync : Obligations.FramerReturnsToSync := by
  intro s bs h hl
  obtain ⟨k, t, hk, hrun⟩ := feeds_reach_waitSync1 h (hl ▸ feedsToSync_le h)
  exact ⟨k, t, hl ▸ hk, hrun⟩

/-- Settles O41: only a match in ChecksumB gives a result, and there R26's row says what the buffer holds. -/
theorem emittedFrameIsValid : Obligations.EmittedFrameIsValid := by
  intro b s t n h he hres
  obtain ⟨hs, rfl⟩ : s.st = .checksumB ∧ b = s.ckB := by
    refine Decidable.byContradiction fun hn => ?_
    rw [(feed_eq_next.mp he).res_eq_none (Decidable.not_and_iff_or_not.mp hn)] at hres
    exact nomatch hres
  obtain rfl := Host.Outcome.next.inj ((feed_checksumB_good hs).symm.trans he)
  obtain ⟨m, bs, hp, hi, hck⟩ := (framerInv_checksum (.inr hs)).mp h.framer
  obtain rfl := Option.some.inj (hp.name_eq.symm.trans hres)
  obtain ⟨c, i, lo, hi', p, rfl, hk⟩ := hp.header
  obtain ⟨hw, -⟩ := lookup_eq_some_bounds hk
  rw [← hw] at hk
  have hlen : p.length = s.len.toNat := by
    have hcount : p.length + 4 = 4 + s.len.toNat := hp.count.trans hi
    omega
  refine ⟨hs, c, i, lo, hi', p, hp.stored, ?length, hlen ▸ hp.fits, ?known, hck.symm⟩
  case length => rw [hlen, hw, wireLength_toNat]
  case known =>
    rw [hlen, BitVec.ofNat_toNat, BitVec.setWidth_eq]
    exact hk

end Sys2Proof
end

section
/-! What the decoder reads from the words of the three kinds (30_encoding.md R47 to R51). -/

namespace Sys2Proof

open Sys2Proof.Machine

theorem decode_feedWord (b : Byte) : decode (feedWord b) = .feed b := by
  obtain ⟨-, h, -⟩ := decodeFramer_controlWord b
  exact h

/-- The encoder writes the word of the interface operation, and the decoder reads that operation back. -/
theorem decode_encode (i : Instr) : decode (encode i) = i.base := by
  obtain ⟨hreset, -, -⟩ := decodeFramer_controlWord 0
  obtain ⟨-, -, hidle⟩ := decodeFramer_controlWord 0
  obtain ⟨hclear, -, hckIdle⟩ := decodeChecksum_controlWord 0
  cases i with
  | reset => exact hreset
  | idle => exact hidle
  | ckClear => exact hclear
  | ckAccum b =>
    obtain ⟨-, haccum, -⟩ := decodeChecksum_controlWord b
    exact haccum
  | ckIdle => exact hckIdle
  | readResult | readErr | readBuf | readCk | lookup => rfl
  | feed | feedWaitSync1Sync1 | feedWaitSync1Noise | feedWaitSync2Sync2 | feedWaitSync2SyncLoss
  | feedHeaderByte | feedHeaderLast | feedPayloadByte | feedPayloadLast
  | feedChecksumAGood | feedChecksumABad | feedChecksumBGood | feedChecksumBBad => exact decode_feedWord _
  | sigFixV7 | sigFixV8 | sigTimePulseCfg | sigAck | sigNak | sigSatelliteInfo | sigGnssEnableCfg => rfl

theorem decodeFramer_of_rst {w : BitVec 10} (h : w.getLsbD 9 = true) : decodeFramer w = .reset := if_pos h

theorem decodeFramer_of_valid {w : BitVec 10} (h9 : w.getLsbD 9 = false) (h8 : w.getLsbD 8 = true) :
    decodeFramer w = .feed (w.extractLsb' 0 8) := by
  simp only [decodeFramer, h9, h8, Bool.false_eq_true, if_false, if_true]

theorem decodeChecksum_of_clr {w : BitVec 10} (h : w.getLsbD 9 = true) : decodeChecksum w = .ckClear := if_pos h

theorem decodeChecksum_of_en {w : BitVec 10} (h9 : w.getLsbD 9 = false) (h8 : w.getLsbD 8 = true) :
    decodeChecksum w = .ckAccum (w.extractLsb' 0 8) := by
  simp only [decodeChecksum, h9, h8, Bool.false_eq_true, if_false, if_true]

theorem decodeChecksum_of_control_clear {w : BitVec 10} (h9 : w.getLsbD 9 = false) (h8 : w.getLsbD 8 = false) :
    decodeChecksum w = .ckIdle := by
  simp only [decodeChecksum, h9, h8, Bool.false_eq_true, if_false]

/-- A bit of the mask reads the word's bit off the match. -/
theorem getLsbD_of_masked {w m v : BitVec 10} (h : w &&& m = v) (k : Nat) (hm : m.getLsbD k = true) :
    w.getLsbD k = v.getLsbD k := by
  rw [← h, BitVec.getLsbD_and, hm, Bool.and_true]

theorem lowByte_eq_ofNat (w : BitVec 10) : w.extractLsb' 0 8 = BitVec.ofNat 8 w.toNat :=
  BitVec.eq_of_toNat_eq (by simp)

/-! Header words (R47). -/

theorem sigWord_inj {c c' i i' : Byte} {w w' : Half} : sigWord c i w = sigWord c' i' w' ↔ c = c' ∧ i = i' ∧ w = w' := by
  refine ⟨fun h => ?_, fun ⟨hc, hi, hw⟩ => by rw [hc, hi, hw]⟩
  obtain ⟨hc, hi, hw⟩ := sigWord_fields c i w
  obtain ⟨hc', hi', hw'⟩ := sigWord_fields c' i' w'
  rw [h] at hc hi hw
  exact ⟨hc.symm.trans hc', hi.symm.trans hi', hw.symm.trans hw'⟩

theorem sigWord_of_fields (h : BitVec 32) : sigWord (sigClass h) (sigId h) (sigLen h) = h := by
  apply BitVec.eq_of_getLsbD_eq
  intro k hk
  rw [sigWord_getLsbD]
  simp only [sigClass, sigId, sigLen, BitVec.getLsbD_extractLsb']
  split
  next h1 => simp [h1]
  next h1 =>
    split
    next h2 => simp [h2, show 8 + (k - 8) = k by omega]
    next h2 => simp [show k - 8 - 8 < 16 by omega, show 16 + (k - 8 - 8) = k by omega]

/-- The signature rows by class, id and length (R63). -/
theorem decodeSignature_sigWord (c i : Byte) (w : Half) : decodeSignature (sigWord c i w) =
    if c = 0x01 ∧ i = 0x07 ∧ w = 84 then .ok .sigFixV7
    else if c = 0x01 ∧ i = 0x07 ∧ w = 92 then .ok .sigFixV8
    else if c = 0x06 ∧ i = 0x31 ∧ w = 32 then .ok .sigTimePulseCfg
    else if c = 0x05 ∧ i = 0x01 ∧ w = 2 then .ok .sigAck
    else if c = 0x05 ∧ i = 0x00 ∧ w = 2 then .ok .sigNak
    else if c = 0x01 ∧ i = 0x35 then .ok (.sigSatelliteInfo w)
    else if c = 0x06 ∧ i = 0x3E then .ok (.sigGnssEnableCfg w)
    else .error .unknownSignature := by
  have h0 : (0x00540701 : BitVec 32) = sigWord 0x01 0x07 84 := by decide
  have h1 : (0x005C0701 : BitVec 32) = sigWord 0x01 0x07 92 := by decide
  have h2 : (0x00203106 : BitVec 32) = sigWord 0x06 0x31 32 := by decide
  have h3 : (0x00020105 : BitVec 32) = sigWord 0x05 0x01 2 := by decide
  have h4 : (0x00020005 : BitVec 32) = sigWord 0x05 0x00 2 := by decide
  have h5 : (0x00003501 : BitVec 32) = sigWord 0x01 0x35 0 := by decide
  have h6 : (0x00003E06 : BitVec 32) = sigWord 0x06 0x3E 0 := by decide
  obtain ⟨-, -, hlen⟩ := sigWord_fields c i w
  simp only [decodeSignature, sigWord_masked, h0, h1, h2, h3, h4, h5, h6, sigWord_inj, hlen, and_true]

/-- The default registry by class, id and length (R63, R64). -/
theorem lookup_defaultRegistry (c i : Byte) (w : Half) : lookup defaultRegistry c i w =
    if c = 0x01 ∧ i = 0x07 ∧ w = 84 then some (0, 84)
    else if c = 0x01 ∧ i = 0x07 ∧ w = 92 then some (1, 92)
    else if c = 0x06 ∧ i = 0x31 ∧ w = 32 then some (2, 32)
    else if c = 0x05 ∧ i = 0x01 ∧ w = 2 then some (3, 2)
    else if c = 0x05 ∧ i = 0x00 ∧ w = 2 then some (4, 2)
    else if c = 0x01 ∧ i = 0x35 then some (5, w)
    else if c = 0x06 ∧ i = 0x3E then some (6, w)
    else none := by
  simp [lookup, defaultRegistry, lookupFrom_cons, entryMatches_iff, resolvedLength,
    @eq_comm _ _ c, @eq_comm _ _ i, @eq_comm _ _ w]

/-- A header word that decodes to a row is that row's word. -/
theorem decodeSignature_eq_ok {c d : Byte} {w : Half} {i : Instr} (h : decodeSignature (sigWord c d w) = .ok i) :
    i ≠ i.base ∧ encode i = .lookup c d w := by
  rw [decodeSignature_sigWord] at h
  iterate 7
    split at h
    next hm =>
      cases h
      exact ⟨nofun, by simp only [encode, hm]⟩
  cases h

/-- A signature row's header word decodes to the row; no other instruction has a word on the lookup port but LOOKUP. -/
theorem decodeSignature_of_encode {c d : Byte} {w : Half} {i : Instr} (h : encode i = .lookup c d w) (hi : i ≠ i.base) :
    decodeSignature (sigWord c d w) = .ok i := by
  cases i with
  | sigFixV7 | sigFixV8 | sigTimePulseCfg | sigAck | sigNak | sigSatelliteInfo | sigGnssEnableCfg =>
    cases h
    rw [decodeSignature_sigWord]
    rfl
  | reset | feed | idle | ckClear | ckAccum | ckIdle | readResult | readErr | readBuf | readCk | lookup =>
    exact absurd rfl hi
  | feedWaitSync1Sync1 | feedWaitSync1Noise | feedWaitSync2Sync2 | feedWaitSync2SyncLoss
  | feedHeaderByte | feedHeaderLast | feedPayloadByte | feedPayloadLast
  | feedChecksumAGood | feedChecksumABad | feedChecksumBGood | feedChecksumBBad => cases h

/-- The header words without a row are those the default registry does not know. -/
theorem decodeSignature_eq_error (c d : Byte) (w : Half) :
    decodeSignature (sigWord c d w) = .error .unknownSignature ↔ lookup defaultRegistry c d w = none := by
  rw [decodeSignature_sigWord, lookup_defaultRegistry]
  iterate 7
    split
    next => exact ⟨nofun, nofun⟩
  exact ⟨fun _ => rfl, fun _ => rfl⟩

end Sys2Proof
end

section
/-! A step runs the operation of the word presented first (R9, R37, R102). -/

namespace Sys2Proof.Machine

theorem step_cons {s : State} {p : PortWord} {ps : List PortWord} (h : s.input = p :: ps) :
    step s = exec (decode p) { s with input := ps } := by
  rw [step, fetch_cons h]

theorem step_nil {s : State} (h : s.input = []) : step s = exec .idle s := by
  rw [step, fetch_nil h]
  rfl

theorem step_encode (i : Instr) (s : State) (ps : List PortWord) :
    step { s with input := encode i :: ps } = exec i { s with input := ps } := by
  rw [step_cons rfl, decode_encode, ← exec_eq_exec_base]

theorem step_withFetchWord {s : State} {nbits w : Nat} {p : PortWord} (h : portWordOfTable nbits w = .ok p) :
    step (s.withFetchWord nbits w) = exec (decode p) s := by
  rw [State.withFetchWord, h]
  exact step_cons rfl

/-- A number that decodes to an instruction is a port word that runs as the instruction: a signature row's header word
on the lookup port, any other word as it is. -/
theorem decodeTable_eq_ok {nbits w : Nat} {i : Instr} (h : decodeTable nbits w = .ok i) :
    ∃ p, portWordOfTable nbits w = .ok p ∧ ∀ s, exec (decode p) s = exec i s := by
  unfold decodeTable at h
  split at h
  next c d len hp =>
    obtain ⟨-, he⟩ := decodeSignature_eq_ok h
    refine ⟨_, hp, fun s => ?_⟩
    rw [← he, decode_encode, ← exec_eq_exec_base]
  next p _ hp =>
    obtain rfl := Except.ok.inj h
    exact ⟨p, hp, fun _ => rfl⟩
  next => cases h

theorem decodeTableWord_eq_some {nbits w : Nat} {i : Instr} (h : decodeTableWord nbits w = some i) :
    decodeTable nbits w = .ok i := by
  unfold decodeTableWord at h
  split at h
  next hi => exact hi.trans (congrArg _ (Option.some.inj h))
  next => cases h

end Sys2Proof.Machine
end

section
/-! The statements about words and steps (30_encoding.md, 43_interface_ops.md). -/

namespace Sys2Proof

open Sys2Proof.Machine Sys2Proof.Spec

/-- Settles O55: an interface operation is its own base. -/
theorem decodeEncodeRoundTrip : Obligations.DecodeEncodeRoundTrip :=
  ⟨decode_encode, fun _ _ _ _ _ => ⟨decode_encode _, decode_encode _, decode_encode _, decode_encode _, decode_encode _,
    decode_encode _, decode_encode _, decode_encode _, decode_encode _, decode_encode _, decode_encode _⟩⟩

/-- Settles O51: the decoder gives the operation of the row's word, which is what the row runs. -/
theorem stepRunsEncodedInstruction : Obligations.StepRunsEncodedInstruction := step_encode

/-- Settles O53: the placed number is a port word that runs as the instruction it decodes to. -/
theorem fetchWordIsRun : Obligations.FetchWordIsRun := by
  intro s nbits w i h
  obtain ⟨p, hp, hrun⟩ := decodeTable_eq_ok (decodeTableWord_eq_some h)
  exact (step_withFetchWord hp).trans (hrun s)

/-- Settles O57: header words and rows, both ways, and the rejected words. -/
theorem signatureWordsDecode : Obligations.SignatureWordsDecode := by
  refine ⟨fun i c d w => decodeSignature_of_encode, fun h i hi => ?_, decodeSignature_eq_error⟩
  rw [← sigWord_of_fields h] at hi
  exact decodeSignature_eq_ok hi

/-- Settles O2: `rst` alone decides on RESET, which writes R103's values over any state. -/
theorem resetRestoresEveryRegister : Obligations.ResetRestoresEveryRegister :=
  ⟨fun _ h => decodeFramer_of_rst h, fun s => ⟨s.applyReset, rfl, rfl, rfl, rfl, rfl, rfl, rfl, rfl, rfl, rfl, rfl,
    Memory.read_nil, rfl⟩⟩

/-- Settles O3: the registers RESET writes and the model's fields it does not are all of the state. -/
theorem resetKeepsModelFields : Obligations.ResetKeepsModelFields := fun _ => rfl

/-- Settles O50: the fetch takes the first word, or IDLE's when there is none. -/
theorem stepRunsDecodedWord : Obligations.StepRunsDecodedWord :=
  fun _ => ⟨fun _ _ h => step_cons h, step_nil⟩

/-- Settles O54: the six codes, and the two that are no state's. -/
theorem framerStateCodes : Obligations.FramerStateCodes := by
  refine ⟨rfl, rfl, rfl, rfl, rfl, rfl, fun x => ?_, rfl, rfl⟩
  cases x <;> rfl

/-- Settles O56: a row's mask and match fix the two control bits the decoder reads. -/
theorem controlWordsDecode : Obligations.ControlWordsDecode := by
  intro w
  refine ⟨fun h => ?high, fun h => ?low, fun h => ?clear⟩
  case high =>
    have h9 := getLsbD_of_masked h 9 rfl
    exact ⟨decodeFramer_of_rst h9, decodeChecksum_of_clr h9⟩
  case low =>
    have h9 := getLsbD_of_masked h 9 rfl
    have h8 := getLsbD_of_masked h 8 rfl
    rw [← lowByte_eq_ofNat]
    exact ⟨decodeFramer_of_valid h9 h8, decodeChecksum_of_en h9 h8⟩
  case clear =>
    have h9 := getLsbD_of_masked h 9 rfl
    have h8 := getLsbD_of_masked h 8 rfl
    exact ⟨decodeFramer_of_control_clear h9 h8, decodeChecksum_of_control_clear h9 h8⟩

/-- Settles O58: closed words, evaluated. -/
theorem sampleWordsDecode : Obligations.SampleWordsDecode := by
  unfold Obligations.SampleWordsDecode
  decide

end Sys2Proof
end

section
/-! What a FEED writes and what it records, row by row (R70 to R77, R91, R94). -/

namespace Sys2Proof.Machine

open Sys2Proof.Spec

theorem FeedAnswer.buf_of_storing {b : Byte} {s t : State} (h : FeedAnswer b s t)
    (hs : s.st = .header ∨ s.st = .payload) : t.buf = s.buf.write s.idx b := by
  cases h with
  | headerByte | payloadByte | payloadLast => rfl
  | headerLast => rw [afterHeader_eq_stored_with]; rfl
  | sync hst | noise hst | start hst | syncLoss hst | ckAGood hst | ckABad hst | ckBGood hst | ckBBad hst =>
    simp [hst] at hs

theorem FeedAnswer.buf_of_not_storing {b : Byte} {s t : State} (h : FeedAnswer b s t) (hh : s.st ≠ .header)
    (hp : s.st ≠ .payload) : t.buf = s.buf := by
  cases h with
  | headerByte hst | headerLast _ _ _ hst => exact absurd hst hh
  | payloadByte hst | payloadLast _ hst => exact absurd hst hp
  | sync | noise | start | syncLoss | ckAGood | ckABad | ckBGood | ckBBad => rfl

/-- FEED leaves the engine, the parameters, the consumer's reading and the queue. -/
theorem FeedAnswer.keeps_side {b : Byte} {s t : State} (h : FeedAnswer b s t) :
    t.ceA = s.ceA ∧ t.ceB = s.ceB ∧ t.cfg = s.cfg ∧ t.reading = s.reading ∧ t.input = s.input := by
  cases h with
  | headerLast => rw [afterHeader_eq_stored_with]; exact ⟨rfl, rfl, rfl, rfl, rfl⟩
  | sync | noise | start | syncLoss | headerByte | payloadByte | payloadLast | ckAGood | ckABad | ckBGood | ckBBad =>
    exact ⟨rfl, rfl, rfl, rfl, rfl⟩

theorem FeedAnswer.keeps_len {b : Byte} {s t : State} (h : FeedAnswer b s t) (hs : s.st ≠ .header) : t.len = s.len := by
  cases h with
  | headerLast _ _ _ hst => exact absurd hst hs
  | sync | noise | start | syncLoss | headerByte | payloadByte | payloadLast
  | ckAGood | ckABad | ckBGood | ckBBad => rfl

theorem FeedAnswer.keeps_name {b : Byte} {s t : State} (h : FeedAnswer b s t) (hw : s.st ≠ .waitSync1)
    (hh : s.st ≠ .header) : t.name = s.name := by
  cases h with
  | sync hst | noise hst => exact absurd hst hw
  | headerLast _ _ _ hst => exact absurd hst hh
  | start | syncLoss | headerByte | payloadByte | payloadLast | ckAGood | ckABad | ckBGood | ckBBad => rfl

/-- The expected checksum bytes are written on entering ChecksumA only. -/
theorem FeedAnswer.keeps_ck {b : Byte} {s t : State} (h : FeedAnswer b s t) (ht : t.st ≠ .checksumA) :
    t.ckA = s.ckA ∧ t.ckB = s.ckB := by
  cases h with
  | headerLast c i lo hst hi hold =>
    generalize hu : afterHeader c i lo b s = u at ht
    cases hu ▸ afterHeader_answer c i lo b s with
    | noPayload => exact absurd rfl ht
    | unknown | overflow | payload => exact ⟨rfl, rfl⟩
  | payloadLast => exact absurd rfl ht
  | sync | noise | start | syncLoss | headerByte | payloadByte | ckAGood | ckABad | ckBGood | ckBBad => exact ⟨rfl, rfl⟩

/-- One event at most: a drop, an emit with its result, or none. -/
theorem FeedAnswer.records {b : Byte} {s t : State} (h : FeedAnswer b s t) :
    (∃ d, t.events = .drop d :: s.events ∧ t.st = .waitSync1 ∧ t.res = none ∧ (t.err ≠ s.err → d.code = 3)) ∨
    (∃ n, t.events = .emit n :: s.events ∧ t.st = .waitSync1 ∧ t.res = some n ∧ t.err = s.err) ∨
    (t.events = s.events ∧ t.res = none ∧ t.err = s.err) := by
  cases h with
  | syncLoss => exact .inl ⟨_, rfl, rfl, rfl, fun he => absurd rfl he⟩
  | ckABad | ckBBad => exact .inl ⟨_, rfl, rfl, rfl, fun _ => rfl⟩
  | ckBGood =>
    cases hn : s.name with
    | none => exact .inr (.inr ⟨State.emitName_events_none s.clearResult hn, hn, rfl⟩)
    | some n => exact .inr (.inl ⟨n, State.emitName_events_some s.clearResult n hn, rfl, hn, rfl⟩)
  | headerLast c i lo hst hi hold =>
    generalize hu : afterHeader c i lo b s = u
    cases hu ▸ afterHeader_answer c i lo b s with
    | unknown | overflow => exact .inl ⟨_, rfl, rfl, rfl, fun he => absurd rfl he⟩
    | noPayload | payload => exact .inr (.inr ⟨rfl, rfl, rfl⟩)
  | sync | noise | start | headerByte | payloadByte | payloadLast | ckAGood => exact .inr (.inr ⟨rfl, rfl, rfl⟩)

end Sys2Proof.Machine
end

section
/-! FEED in states no run reaches: where it stops (log entries 8, 9, 18). -/

namespace Sys2Proof.Machine

open Sys2Proof.Spec

theorem storeByte_of_ge {b : Byte} {s : State} (h : s.cfg.bufCap ≤ s.idx) :
    storeByte b s = .fault (.writeOutsideBuffer s.idx) := by
  rw [storeByte, bufWrite_of_ge h, andThen_fault]

theorem feed_store_outside {b : Byte} {s : State} (hs : s.st = .header ∨ s.st = .payload) (hc : s.cfg.bufCap ≤ s.idx) :
    feed b s = .fault (.writeOutsideBuffer s.idx) := by
  have hstore : storeByte b s.clearResult = .fault (.writeOutsideBuffer s.idx) := storeByte_of_ge hc
  rcases hs with hs | hs
  · rw [feed_header b hs, feedHeader, hstore, andThen_fault]
  · rw [feed_payload b hs, feedPayload, hstore, andThen_fault]

theorem emitName_of_not_pending {s : State} (h : s.name = none) :
    s.emitName = { s with res := none, st := .waitSync1 } := by
  simp [State.emitName, h]

theorem feed_header_fourth {b : Byte} {s : State} (hs : s.st = .header) (hi : s.idx = 3) :
    feed b s = completeHeader (stored b s) := by
  rw [feed_header b hs, feedHeader, storeByte_clearResult b (hi ▸ s.cfg.bufCap_min), andThen_next]
  exact if_pos (congrArg (· + 1) hi)

theorem feed_payload_final {b : Byte} {s : State} (hs : s.st = .payload) (hc : s.idx < s.cfg.bufCap)
    (hi : s.idx + 1 = 4 + s.len.toNat) : feed b s = enterChecksum (stored b s) := by
  rw [feed_payload b hs, feedPayload, storeByte_clearResult b hc, andThen_next]
  exact if_pos hi

/-- A range read stops at the first unwritten byte. -/
theorem bufReadRange_first_unwritten {s : State} {n k : Nat} (hc : k < s.cfg.bufCap) (hn : s.buf.read k = none) :
    ∀ {i : Nat}, i ≤ k → k < i + n → (∀ j, i ≤ j → j < k → s.buf.read j ≠ none) →
      bufReadRange i n s = .fault (.readUnwritten k) := by
  induction n with
  | zero => exact fun hik hk => absurd hk (Nat.not_lt_of_le hik)
  | succ n ih =>
    intro i hik hk hw
    rw [bufReadRange]
    by_cases he : i = k
    · rw [he, bufRead_of_unwritten hc hn, andThen_fault]
    · have hlt : i < k := Nat.lt_of_le_of_ne hik he
      obtain ⟨v, hv⟩ := Option.ne_none_iff_exists'.mp (hw i (Nat.le_refl i) hlt)
      rw [bufRead_of_written (Nat.lt_trans hlt hc) hv, andThen_next,
        ih hlt (by omega) fun j hj => hw j (Nat.le_of_succ_le hj), andThen_fault]

/-- The header is assembled from offset 0 on and stops at the first unwritten byte. -/
theorem readHeader_first_unwritten {s : State} {k : Nat} (hk : k < 3) (hw : ∀ j, j < k → s.buf.read j ≠ none)
    (hn : s.buf.read k = none) : readHeader s = .fault (.readUnwritten k) := by
  have hcap : 4 ≤ s.cfg.bufCap := s.cfg.bufCap_min
  have unwritten : bufRead k s = .fault (.readUnwritten k) := bufRead_of_unwritten (by omega) hn
  have written (j : Nat) (hj : j < k) : ∃ v, bufRead j s = .next v := by
    obtain ⟨v, hv⟩ := Option.ne_none_iff_exists'.mp (hw j hj)
    exact ⟨v, bufRead_of_written (by omega) hv⟩
  unfold readHeader
  match k, hk with
  | 0, _ => rw [unwritten, andThen_fault]
  | 1, _ =>
    obtain ⟨c, hc⟩ := written 0 (by decide)
    rw [hc, andThen_next, unwritten, andThen_fault]
  | 2, _ =>
    obtain ⟨c, hc⟩ := written 0 (by decide)
    obtain ⟨i, hi⟩ := written 1 (by decide)
    rw [hc, andThen_next, hi, andThen_next, unwritten, andThen_fault]

end Sys2Proof.Machine
end

section
/-! The rows of FEED by state (R50). -/

namespace Sys2Proof.Machine

theorem feedRow_waitSync1 {b : Byte} {s : State} (hs : s.st = .waitSync1) :
    feedRow b s = if b = sync1 then .feedWaitSync1Sync1 else .feedWaitSync1Noise b := by simp only [feedRow, hs]

theorem feedRow_waitSync2 {b : Byte} {s : State} (hs : s.st = .waitSync2) :
    feedRow b s = if b = sync2 then .feedWaitSync2Sync2 else .feedWaitSync2SyncLoss b := by simp only [feedRow, hs]

theorem feedRow_header {b : Byte} {s : State} (hs : s.st = .header) :
    feedRow b s = if s.idx = 3 then .feedHeaderLast b else .feedHeaderByte b := by simp only [feedRow, hs]

theorem feedRow_payload {b : Byte} {s : State} (hs : s.st = .payload) :
    feedRow b s = if s.idx + 1 = 4 + s.len.toNat then .feedPayloadLast b else .feedPayloadByte b := by
  simp only [feedRow, hs]

theorem feedRow_checksumA {b : Byte} {s : State} (hs : s.st = .checksumA) :
    feedRow b s = if b = s.ckA then .feedChecksumAGood b else .feedChecksumABad b := by simp only [feedRow, hs]

theorem feedRow_checksumB {b : Byte} {s : State} (hs : s.st = .checksumB) :
    feedRow b s = if b = s.ckB then .feedChecksumBGood b else .feedChecksumBBad b := by simp only [feedRow, hs]

end Sys2Proof.Machine

namespace Sys2Proof.Spec

open Sys2Proof.Machine

/-- A row's condition names its state, and within the state it is the branch `feedRow` takes. -/
theorem feedRow_unique {b : Byte} {s : State} {i : Instr} (hb : i.base = .feed b) (hc : RowCondition s i) :
    i = feedRow b s := by
  cases i with
  | reset | feed | idle | ckClear | ckAccum | ckIdle | readResult | readErr | readBuf | readCk | lookup
  | sigFixV7 | sigFixV8 | sigTimePulseCfg | sigAck | sigNak | sigSatelliteInfo | sigGnssEnableCfg => exact hc.elim
  | feedWaitSync1Sync1 => cases hb; exact ((feedRow_waitSync1 hc).trans (if_pos rfl)).symm
  | feedWaitSync1Noise => cases hb; exact ((feedRow_waitSync1 hc.1).trans (if_neg hc.2)).symm
  | feedWaitSync2Sync2 => cases hb; exact ((feedRow_waitSync2 hc).trans (if_pos rfl)).symm
  | feedWaitSync2SyncLoss => cases hb; exact ((feedRow_waitSync2 hc.1).trans (if_neg hc.2)).symm
  | feedHeaderByte => cases hb; exact ((feedRow_header hc.1).trans (if_neg (Nat.ne_of_lt hc.2))).symm
  | feedHeaderLast => cases hb; exact ((feedRow_header hc.1).trans (if_pos hc.2)).symm
  | feedPayloadByte => cases hb; exact ((feedRow_payload hc.1).trans (if_neg (Nat.ne_of_lt hc.2))).symm
  | feedPayloadLast => cases hb; exact ((feedRow_payload hc.1).trans (if_pos hc.2)).symm
  | feedChecksumAGood => cases hb; exact ((feedRow_checksumA hc.1).trans (if_pos hc.2)).symm
  | feedChecksumABad => cases hb; exact ((feedRow_checksumA hc.1).trans (if_neg hc.2)).symm
  | feedChecksumBGood => cases hb; exact ((feedRow_checksumB hc.1).trans (if_pos hc.2)).symm
  | feedChecksumBBad => cases hb; exact ((feedRow_checksumB hc.1).trans (if_neg hc.2)).symm

/-- In a state of a run the row `feedRow` gives is the byte's, and its condition holds. -/
theorem feedRow_condition {s : State} (b : Byte) (h : Inv s) :
    (feedRow b s).base = .feed b ∧ RowCondition s (feedRow b s) := by
  cases hs : s.st with
  | waitSync1 =>
    rw [feedRow_waitSync1 hs]
    split
    next hb => exact ⟨hb ▸ rfl, hs⟩
    next hb => exact ⟨rfl, hs, hb⟩
  | waitSync2 =>
    rw [feedRow_waitSync2 hs]
    split
    next hb => exact ⟨hb ▸ rfl, hs⟩
    next hb => exact ⟨rfl, hs, hb⟩
  | header =>
    obtain ⟨h3, -⟩ := (framerInv_header hs).mp h.framer
    rw [feedRow_header hs]
    split
    next hi => exact ⟨rfl, hs, hi⟩
    next hi => exact ⟨rfl, hs, Nat.lt_of_le_of_ne h3 hi⟩
  | payload =>
    obtain ⟨_, _, -, -, hlt⟩ := (framerInv_payload hs).mp h.framer
    rw [feedRow_payload hs]
    split
    next hi => exact ⟨rfl, hs, hi⟩
    next hi => exact ⟨rfl, hs, Nat.lt_of_le_of_ne hlt hi⟩
  | checksumA =>
    rw [feedRow_checksumA hs]
    split
    next hb => exact ⟨rfl, hs, hb⟩
    next hb => exact ⟨rfl, hs, hb⟩
  | checksumB =>
    rw [feedRow_checksumB hs]
    split
    next hb => exact ⟨rfl, hs, hb⟩
    next hb => exact ⟨rfl, hs, hb⟩

end Sys2Proof.Spec
end

section
/-! The reads, and what an operation that answers next has done (R36). -/

namespace Sys2Proof.Machine

open Sys2Proof.Spec

theorem andThen_assoc {α β γ : Type} (o : Host.Outcome α Fault Refusal) (k : α → Host.Outcome β Fault Refusal)
    (k' : β → Host.Outcome γ Fault Refusal) : andThen (andThen o k) k' = andThen o fun a => andThen (k a) k' := by
  cases o <;> rfl

theorem exec_of_base_lookup {i : Instr} {c d : Byte} {w : Half} (h : i.base = .lookup c d w) (s : State) :
    exec i s = .next (s.deliver (lookupOutputs (lookup s.cfg.registry c d w))) := by
  rw [exec_eq_exec_base, h]
  rfl

/-- What the read ports show of the state (R24, R69, R81 to R83). -/
def State.shown (s : State) : Option Nat × Nat × Memory × Byte × Byte × Config :=
  (s.res, s.err, s.buf, s.ceA, s.ceB, s.cfg)

/-- A read delivers a value of what the ports show, or stops. -/
theorem exec_read {i : Instr} (h : IsRead i) : ∃ value : State → Host.Outcome Reading Fault Refusal,
    (∀ s, exec i s = andThen (value s) fun r => .next (s.deliver r)) ∧
      ∀ s t, s.shown = t.shown → value s = value t := by
  obtain rfl | rfl | ⟨a, rfl⟩ | rfl | ⟨c, d, w, hb⟩ := h
  · refine ⟨fun s => .next (.result s.pktValid s.pktName), fun _ => rfl, fun s t h => ?_⟩
    simp only [State.shown, Prod.mk.injEq] at h
    simp only [State.pktValid, State.pktName, h]
  · refine ⟨fun s => .next (.errCount s.errCount), fun _ => rfl, fun s t h => ?_⟩
    simp only [State.shown, Prod.mk.injEq] at h
    simp only [State.errCount, h]
  · refine ⟨fun s => andThen (bufRead a s) fun v => .next (.rdData v), fun s => ?_, fun s t h => ?_⟩
    · exact (andThen_assoc (bufRead a s) (fun v => .next (.rdData v)) fun r => .next (s.deliver r)).symm
    · simp only [State.shown, Prod.mk.injEq] at h
      simp only [bufRead, h]
  · refine ⟨fun s => .next (.ckOut s.ckOut.1 s.ckOut.2), fun _ => rfl, fun s t h => ?_⟩
    simp only [State.shown, Prod.mk.injEq] at h
    simp only [State.ckOut, h]
  · refine ⟨fun s => .next (lookupOutputs (lookup s.cfg.registry c d w)), exec_of_base_lookup hb, fun s t h => ?_⟩
    simp only [State.shown, Prod.mk.injEq] at h
    simp only [h]

/-- The kinds of operation, by what they may write. -/
inductive InstrKind (i : Instr) : Prop
  | reset (hi : i = .reset)
  | feed (b : Byte) (hi : i.base = .feed b)
  | read (hi : IsRead i)
  | ckClear (hi : i = .ckClear)
  | ckAccum (b : Byte) (hi : i = .ckAccum b)
  | idle (hi : i = .idle ∨ i = .ckIdle)

theorem instrKind (i : Instr) : InstrKind i := by
  cases i with
  | reset => exact .reset rfl
  | idle => exact .idle (.inl rfl)
  | ckIdle => exact .idle (.inr rfl)
  | ckClear => exact .ckClear rfl
  | ckAccum b => exact .ckAccum b rfl
  | readResult => exact .read (.inl rfl)
  | readErr => exact .read (.inr (.inl rfl))
  | readBuf a => exact .read (.inr (.inr (.inl ⟨a, rfl⟩)))
  | readCk => exact .read (.inr (.inr (.inr (.inl rfl))))
  | lookup | sigFixV7 | sigFixV8 | sigTimePulseCfg | sigAck | sigNak | sigSatelliteInfo | sigGnssEnableCfg =>
    exact .read (.inr (.inr (.inr (.inr ⟨_, _, _, rfl⟩))))
  | feed | feedWaitSync1Sync1 | feedWaitSync1Noise | feedWaitSync2Sync2 | feedWaitSync2SyncLoss
  | feedHeaderByte | feedHeaderLast | feedPayloadByte | feedPayloadLast
  | feedChecksumAGood | feedChecksumABad | feedChecksumBGood | feedChecksumBBad => exact .feed _ rfl

theorem exec_of_idle {i : Instr} (hi : i = .idle ∨ i = .ckIdle) (s : State) : exec i s = .next s := by
  rcases hi with rfl | rfl <;> rfl

/-- The state an operation ends in, by the kind of operation. -/
inductive ExecAnswer (i : Instr) (s : State) : State → Prop
  | reset (hi : i = .reset) : ExecAnswer i s s.applyReset
  | feed {b : Byte} {t : State} (hi : i.base = .feed b) (h : FeedAnswer b s t) : ExecAnswer i s t
  | read (r : Reading) (hi : IsRead i) : ExecAnswer i s (s.deliver r)
  | engine (x y : Byte) (hi : i = .ckClear ∨ ∃ b, i = .ckAccum b) : ExecAnswer i s { s with ceA := x, ceB := y }
  | idle (hi : i = .idle ∨ i = .ckIdle) : ExecAnswer i s s

theorem exec_answer {i : Instr} {s t : State} (h : exec i s = .next t) : ExecAnswer i s t := by
  cases instrKind i with
  | reset hi =>
    subst hi
    exact Host.Outcome.next.inj h ▸ .reset rfl
  | feed b hi => exact .feed hi (feed_eq_next.mp ((exec_of_base_feed hi s).symm.trans h))
  | read hi =>
    obtain ⟨value, hv, -⟩ := exec_read hi
    obtain ⟨r, -, hr⟩ := andThen_eq_next.mp ((hv s).symm.trans h)
    exact Host.Outcome.next.inj hr ▸ .read r hi
  | ckClear hi =>
    subst hi
    exact Host.Outcome.next.inj h ▸ .engine _ _ (.inl rfl)
  | ckAccum b hi =>
    subst hi
    exact Host.Outcome.next.inj h ▸ .engine _ _ (.inr ⟨b, rfl⟩)
  | idle hi => exact Host.Outcome.next.inj ((exec_of_idle hi s).symm.trans h) ▸ .idle hi

end Sys2Proof.Machine
end

section
/-! The statements about the rows, the reads and what an operation writes (10_state.md, 30_encoding.md). -/

namespace Sys2Proof

open Sys2Proof.Machine Sys2Proof.Spec

/-- Settles O10: the store, the header assembly and the payload checksum stop as the buffer's write and read do. -/
theorem feedOutsideReachableStates : Obligations.FeedOutsideReachableStates := by
  intro b s
  refine ⟨feed_store_outside, fun k hs hi hk hw hn => ?header, fun k hs hc hi hk hw hn => ?payload,
    fun hs hb hn => ?unnamed⟩
  case header =>
    have same (j : Nat) (hj : j ≤ k) : (stored b s).buf.read j = s.buf.read j := read_stored_other b (by omega)
    have hread := readHeader_first_unwritten (s := stored b s) hk (fun j hj => same j (Nat.le_of_lt hj) ▸ hw j hj)
      ((same k (Nat.le_refl k)).trans hn)
    rw [exec_feed, feed_header_fourth hs hi, completeHeader, hread, andThen_fault]
  case payload =>
    have same (j : Nat) (hj : j ≤ k) : (stored b s).buf.read j = s.buf.read j := read_stored_other b (by omega)
    have hread := bufReadRange_first_unwritten (s := stored b s) (n := 4 + s.len.toNat) (Nat.lt_trans hk hc)
      ((same k (Nat.le_refl k)).trans hn) (Nat.zero_le k) (by omega) fun j _ hj => same j (Nat.le_of_lt hj) ▸ hw j hj
    rw [exec_feed, feed_payload_final hs hc hi, enterChecksum]
    exact congrArg (andThen · _) hread
  case unnamed =>
    subst hb
    rw [exec_feed, feed_checksumB_good hs, emitName_of_not_pending (s := s.clearResult) hn]
    rfl

/-- Settles O11: each row records its drop, its emit, or nothing. -/
theorem feedRecordsAtMostOneEvent : Obligations.FeedRecordsAtMostOneEvent := fun _ _ _ h =>
  (feed_eq_next.mp h).records

/-- Settles O12: each row stores its byte or leaves the buffer, and writes the registers of its rule only. -/
theorem feedFrame : Obligations.FeedFrame := by
  intro b s t h
  have hf := feed_eq_next.mp h
  obtain ⟨hceA, hceB, hcfg, hreading, hinput⟩ := hf.keeps_side
  refine ⟨fun hs => ?_, fun hh hp a => by rw [hf.buf_of_not_storing hh hp], hceA, hceB, hcfg, hreading, hinput,
    hf.keeps_len, hf.keeps_ck, hf.keeps_name⟩
  rw [hf.buf_of_storing hs]
  exact ⟨Memory.read_write_same .., fun a ha => Memory.read_write_other _ _ _ _ ha⟩

/-- Settles O20: each row falls back on its word's operation or agrees with it. -/
theorem rowMeansItsBaseOperation : Obligations.RowMeansItsBaseOperation := exec_eq_exec_base

/-- Settles O15: a row is the FEED of its byte. -/
theorem headerRowsComplete : Obligations.HeaderRowsComplete := by
  intro b s hs
  have hcap : 4 ≤ s.cfg.bufCap := s.cfg.bufCap_min
  refine ⟨fun hi => ?_, fun c i lo hi hold => ?_⟩ <;> rw [exec_of_base_feed rfl]
  · exact feed_header_byte b hs (Nat.ne_of_lt hi) (by omega)
  · exact feed_header_last b hs hi hold

/-- Settles O16: a row is the FEED of its byte. -/
theorem payloadRowsComplete : Obligations.PayloadRowsComplete := by
  intro b s hs hc
  refine ⟨fun hi => ?_, fun bs hi hl hold => ?_⟩ <;> rw [exec_of_base_feed rfl]
  · exact feed_payload_byte b hs (Nat.ne_of_lt hi) hc
  · exact feed_payload_last b hs hi hc hl hold

/-- Settles O14: a row is the FEED of its byte. -/
theorem syncRowsComplete : Obligations.SyncRowsComplete := by
  intro b s
  refine ⟨fun hs => ?_, fun hs hb => ?_, fun hs => ?_, fun hs hb => ?_⟩ <;> rw [exec_of_base_feed rfl]
  · exact feed_waitSync1_sync hs
  · exact feed_waitSync1_noise hs hb
  · exact feed_waitSync2_sync hs
  · exact feed_waitSync2_loss hs hb

/-- Settles O17: a row is the FEED of its byte. -/
theorem checksumRowsComplete : Obligations.ChecksumRowsComplete := by
  intro b s
  refine ⟨fun hs hb => ?_, fun hs hb => ?_, fun n hs hb hn => ?_, fun hs hb => ?_⟩ <;> rw [exec_of_base_feed rfl]
  · exact hb ▸ feed_checksumA_good hs
  · exact feed_checksumA_bad hs hb
  · obtain ⟨good, -⟩ := feedInChecksumB b s hs
    exact good n hb hn
  · exact feed_checksumB_bad hs hb

/-- Settles O18: a row is LOOKUP of its header, and the default registry's entries answer it. -/
theorem signatureRowsAnswer : Obligations.SignatureRowsAnswer := by
  intro w s hreg
  refine ⟨?_, ?_, ?_, ?_, ?_, ?_, ?_⟩ <;> rw [exec_of_base_lookup rfl, hreg, lookup_defaultRegistry] <;> rfl

/-- Settles O19: `feedRow`'s row is the byte's and its condition holds, and no other row's does. -/
theorem feedRowsPartition : Obligations.FeedRowsPartition := by
  intro b s h i
  refine ⟨fun ⟨hb, hc⟩ => feedRow_unique hb hc, ?_⟩
  rintro rfl
  exact feedRow_condition b h

/-- Settles O26: the value delivered does not depend on what was delivered before. -/
theorem readsAreIdempotent : Obligations.ReadsAreIdempotent := by
  intro i s t hi h
  obtain ⟨value, hexec, hvalue⟩ := exec_read hi
  obtain ⟨r, hr, ht⟩ := andThen_eq_next.mp ((hexec s).symm.trans h)
  obtain rfl := Host.Outcome.next.inj ht
  refine ⟨rfl, ?_⟩
  rw [hexec, hvalue (s.deliver r) s rfl, hr, andThen_next]
  rfl

/-- Settles O36: by the kind of operation; what a FEED leaves is its frame. -/
theorem writersOfEachRegister : Obligations.WritersOfEachRegister := by
  intro i s t h
  cases exec_answer h with
  | reset hi =>
    exact ⟨rfl, rfl, fun _ hr => absurd hi hr, fun _ _ hr => absurd hi hr, fun _ => rfl, fun _ => rfl⟩
  | feed hi hf =>
    obtain ⟨hceA, hceB, hcfg, hreading, hinput⟩ := hf.keeps_side
    exact ⟨hcfg, hinput, fun hn => absurd hi (hn _), fun _ _ _ => ⟨hceA, hceB⟩, fun hn => absurd hi (hn _),
      fun _ => hreading⟩
  | read r hi =>
    exact ⟨rfl, rfl, fun _ _ => ⟨rfl, rfl, rfl, rfl, rfl, rfl, rfl, rfl, rfl⟩, fun _ _ _ => ⟨rfl, rfl⟩, fun _ => rfl,
      fun hn => absurd hi hn⟩
  | engine x y hi =>
    refine ⟨rfl, rfl, fun _ _ => ⟨rfl, rfl, rfl, rfl, rfl, rfl, rfl, rfl, rfl⟩, fun hclear haccum _ => ?_, fun _ => rfl,
      fun _ => rfl⟩
    exact absurd hi (not_or.mpr ⟨hclear, not_exists.mpr haccum⟩)
  | idle hi =>
    exact ⟨rfl, rfl, fun _ _ => ⟨rfl, rfl, rfl, rfl, rfl, rfl, rfl, rfl, rfl⟩, fun _ _ _ => ⟨rfl, rfl⟩, fun _ => rfl,
      fun _ => rfl⟩

/-- Settles O28: the first match's declared length is the wire length or the sentinel. -/
theorem lookupResolvesToWireLength : Obligations.LookupResolvesToWireLength := fun _ _ _ _ _ _ h =>
  lookup_eq_some_bounds h

end Sys2Proof
end

section
/-! The checksum of a concatenation and its consequences (R56), computed in the ring of bytes; the default registry's
entries (R67). -/

namespace Sys2Proof.Machine

/-- The loop from any start: the first sum starts higher by `a`, and the second meets `a` once per byte. -/
theorem foldl_checksumStep (s : List Byte) (a b : Byte) : s.foldl checksumStep (a, b) =
    (a + (checksum s).1, b + BitVec.ofNat 8 s.length * a + (checksum s).2) := by
  induction s generalizing a b with
  | nil => simp
  | cons x s ih =>
    have hx : checksum (x :: s) = s.foldl checksumStep (0 + x, 0 + (0 + x)) := rfl
    rw [List.foldl_cons, checksumStep, hx, ih, ih, List.length_cons, BitVec.ofNat_add]
    exact Prod.ext (by grind) (by grind)

theorem checksum_append_fst (s u : List Byte) : (checksum (s ++ u)).1 = (checksum s).1 + (checksum u).1 := by
  rw [checksum_append, foldl_checksumStep]

theorem checksum_append_snd (s u : List Byte) :
    (checksum (s ++ u)).2 = (checksum s).2 + BitVec.ofNat 8 u.length * (checksum s).1 + (checksum u).2 := by
  rw [checksum_append, foldl_checksumStep]

theorem checksum_singleton (x : Byte) : checksum [x] = (x, x) := by
  simp [checksum, checksumStep]

theorem checksum_pair (x y : Byte) : checksum [x, y] = (x + y, x + (x + y)) := by
  simp [checksum, checksumStep]

theorem checksum_zeros (m : Nat) : checksum (zeros m) = (0, 0) := by
  induction m with
  | zero => rfl
  | succ m ih => exact ih

/-- One byte of a sequence, singled out: the rest of the first sum does not depend on it. -/
theorem checksum_set_fst (s : List Byte) (k : Nat) (x : Byte) (hk : k < s.length) :
    (checksum (s.set k x)).1 = (checksum (s.take k)).1 + x + (checksum (s.drop (k + 1))).1 := by
  rw [List.set_eq_take_append_cons_drop, if_pos hk, ← List.singleton_append, ← List.append_assoc,
    checksum_append_fst, checksum_append_fst, checksum_singleton]

/-- The engine folds the bytes it accumulates as the checksum's loop does (R58). -/
theorem execAll_ckBytes (bs : List Byte) : ∀ s : State, execAll (ckBytes bs) s = .next { s with
    ceA := (bs.foldl checksumStep (s.ceA, s.ceB)).1, ceB := (bs.foldl checksumStep (s.ceA, s.ceB)).2 } := by
  induction bs with
  | nil => exact fun _ => rfl
  | cons b bs ih =>
    intro s
    show execAll (.ckAccum b :: ckBytes bs) s = _
    rw [execAll_cons, exec_ckAccum, andThen_next, ih]
    rfl

/-- A byte in front has the weight of the whole length; the weights after it stay. -/
theorem weightedSum_cons (x : Byte) (s : List Byte) :
    ((x :: s).zipIdx.map fun p => ((x :: s).length - p.2) * p.1.toNat).sum =
      s.length * x.toNat + x.toNat + (s.zipIdx.map fun p => (s.length - p.2) * p.1.toNat).sum := by
  rw [List.zipIdx_cons, List.zipIdx_succ, List.map_cons, List.sum_cons, List.map_map, List.length_cons, Nat.sub_zero,
    Nat.succ_mul]
  refine congrArg (s.length * x.toNat + x.toNat + ·) (congrArg List.sum (List.map_congr_left fun p _ => ?_))
  show (s.length + 1 - (p.2 + 1)) * p.1.toNat = _
  rw [Nat.add_sub_add_right]

/-- Two default entries with one class and id have different lengths, neither of them the sentinel. -/
theorem defaultRegistry_disjoint : ∀ m n : Fin 7, m ≠ n → defaultRegistry[m].cls = defaultRegistry[n].cls →
    defaultRegistry[m].id = defaultRegistry[n].id → defaultRegistry[m].declLen ≠ defaultRegistry[n].declLen ∧
      defaultRegistry[m].declLen ≠ 0 ∧ defaultRegistry[n].declLen ≠ 0 := by decide

end Sys2Proof.Machine
end

section
/-! The statements about the checksum function and its engine (40_checksum.md), and R67's. -/

namespace Sys2Proof

open Sys2Proof.Machine Sys2Proof.Spec

/-- Settles O31, by induction on the sequence: a byte in front is added to the first sum once and to the second as often
as there are bytes from it on. -/
theorem checksumClosedForm : Obligations.ChecksumClosedForm := by
  intro s
  induction s with
  | nil => exact ⟨rfl, rfl⟩
  | cons x s ih =>
    obtain ⟨ihA, ihB⟩ := ih
    rw [weightedSum_cons, List.map_cons, List.sum_cons, ← List.singleton_append, checksum_append_fst,
      checksum_append_snd, checksum_singleton]
    constructor
    · rw [BitVec.toNat_add, ihA, Nat.add_mod_mod]
    · rw [BitVec.toNat_add, BitVec.toNat_add, BitVec.toNat_mul, BitVec.toNat_ofNat, ihB, Nat.mod_mul_mod]
      dsimp only
      generalize s.length * x.toNat = y
      omega

/-- Settles O32: the first sums of the two sequences differ in that byte's summand only. -/
theorem checksumDetectsOneByteChange : Obligations.ChecksumDetectsOneByteChange := by
  intro s k x hk hx h
  have hs := checksum_set_fst s k s[k] hk
  rw [List.set_getElem_self] at hs
  rw [checksum_set_fst s k x hk, hs, BitVec.add_left_inj, BitVec.add_right_inj] at h
  exact hx (h ▸ List.getElem?_eq_getElem hk)

/-- Settles O33: zeros leave the loop's start; a swap moves the second sum by the bytes' difference. -/
theorem checksumZerosAndSwaps : Obligations.ChecksumZerosAndSwaps := by
  refine ⟨fun m s => ?zeros, fun p q x y hxy => ⟨?sumA, ?sumB⟩⟩
  case zeros =>
    rw [checksum_append, checksum_zeros]
    rfl
  case sumA => simp only [checksum_append_fst, checksum_pair, BitVec.add_comm x y]
  case sumB =>
    simp only [checksum_append_fst, checksum_append_snd, checksum_pair, List.length_cons, List.length_nil]
    exact fun h => hxy (by grind)

/-- Settles O34: the later byte's weight differs from the earlier one's by 256, which is 0 in a byte. -/
theorem checksumMissesOppositeChanges : Obligations.ChecksumMissesOppositeChanges := by
  intro p q r x y d hq
  refine Prod.ext ?_ ?_ <;>
    simp only [checksum_append_fst, checksum_append_snd, checksum_singleton, List.length_singleton, hq] <;> grind

/-- Settles O35: after CK_CLEAR the engine's accumulators are the checksum of the bytes folded in. -/
theorem generatorBuildsFrame : Obligations.GeneratorBuildsFrame := by
  intro c i p s
  refine ⟨_, ?_, rfl, rfl⟩
  rw [generatorOps, execAll_cons, exec_ckClear, andThen_next, execAll_ckBytes]
  rfl

/-- Settles O29: two entries that match one header have its class and id, and its length unless the sentinel. -/
theorem defaultRegistryUnambiguous : Obligations.DefaultRegistryUnambiguous := by
  intro c i w m n e e' he he' hm hm'
  obtain ⟨hmlt, rfl⟩ := List.getElem?_eq_some_iff.mp he
  obtain ⟨hnlt, rfl⟩ := List.getElem?_eq_some_iff.mp he'
  obtain ⟨hc, hi, hd⟩ := hm
  obtain ⟨hc', hi', hd'⟩ := hm'
  refine Decidable.byContradiction fun hne => ?_
  obtain ⟨hdiff, h0, h0'⟩ := defaultRegistry_disjoint ⟨m, hmlt⟩ ⟨n, hnlt⟩ (fun h => hne (Fin.mk.inj h))
    (hc.trans hc'.symm) (hi.trans hi'.symm)
  exact hdiff ((hd.resolve_right h0).trans (hd'.resolve_right h0').symm)

end Sys2Proof
end

section
/-! Runs of FEEDs that give no result, and the run of a frame up to its checksum bytes (R78, R79). -/

namespace Sys2Proof.Machine

open Sys2Proof.Spec

/-- Feeding the bytes from the first state completes in the second, and no FEED on the way gives a result. -/
inductive SilentRun : List Byte → State → State → Prop
  | nil (s : State) : SilentRun [] s s
  | cons {b : Byte} {bs : List Byte} {s u t : State} (h : feed b s = .next u) (hr : u.res = none)
      (hs : SilentRun bs u t) : SilentRun (b :: bs) s t

theorem SilentRun.single {b : Byte} {s t : State} (h : feed b s = .next t) (hr : t.res = none) : SilentRun [b] s t :=
  .cons h hr (.nil t)

theorem SilentRun.append {bs cs : List Byte} {s u t : State} (h : SilentRun bs s u) (h' : SilentRun cs u t) :
    SilentRun (bs ++ cs) s t := by
  induction h with
  | nil => exact h'
  | cons hf hr _ ih => exact .cons hf hr (ih h')

theorem SilentRun.execAll_eq {bs : List Byte} {s t : State} (h : SilentRun bs s t) :
    execAll (feeds bs) s = .next t := by
  induction h with
  | nil => rfl
  | cons hf _ _ ih => exact (execAll_feeds_cons _ hf).trans ih

/-- Feeding the first bytes only, at least one of them, completes without a result. -/
theorem SilentRun.take {bs : List Byte} {s t : State} (h : SilentRun bs s t) :
    ∀ k, 0 < k → k ≤ bs.length → ∃ u, execAll (feeds (bs.take k)) s = .next u ∧ u.res = none := by
  induction h with
  | nil => exact fun k hk hl => absurd hl (Nat.not_le_of_lt hk)
  | @cons b bs s u t hf hr _ ih =>
    intro k hk hl
    obtain ⟨k, rfl⟩ := Nat.exists_eq_succ_of_ne_zero (Nat.ne_of_gt hk)
    rw [List.take_succ_cons, execAll_feeds_cons _ hf]
    cases k with
    | zero => exact ⟨u, rfl, hr⟩
    | succ k => exact ih (k + 1) (Nat.succ_pos k) (Nat.le_of_succ_le_succ hl)

/-- `t` is reached from `s` without a counted error or an event, `bs` being the frame bytes stored on the way. -/
structure Received (s : State) (bs : List Byte) (t : State) : Prop where
  err_eq    : t.err = s.err
  cfg_eq    : t.cfg = s.cfg
  events_eq : t.events = s.events
  stored    : BufHolds t bs
  count     : bs.length = t.idx

theorem Received.congr {s t u : State} {bs : List Byte} (h : Received s bs t) (he : u.err = t.err) (hc : u.cfg = t.cfg)
    (hv : u.events = t.events) (hb : u.buf = t.buf) (hi : u.idx = t.idx) : Received s bs u where
  err_eq := he.trans h.err_eq
  cfg_eq := hc.trans h.cfg_eq
  events_eq := hv.trans h.events_eq
  stored := (bufHolds_congr hb).mpr h.stored
  count := h.count.trans hi.symm

theorem Received.stored_byte {s t : State} {bs : List Byte} (b : Byte) (h : Received s bs t) :
    Received s (bs ++ [b]) (Spec.stored b t) where
  err_eq := h.err_eq
  cfg_eq := h.cfg_eq
  events_eq := h.events_eq
  stored := bufHolds_stored b h.count h.stored
  count := by rw [List.length_append, h.count]; rfl

/-- There is room for `k` more bytes before the byte that Header or Payload decides on. -/
def RoomFor (k : Nat) (s : State) : Prop :=
  (s.st = .header ∧ s.idx + k ≤ 3) ∨ (s.st = .payload ∧ s.idx + k < 4 + s.len.toNat ∧ 4 + s.len.toNat ≤ s.cfg.bufCap)

theorem RoomFor.feed_eq {k : Nat} {s : State} (b : Byte) (h : RoomFor (k + 1) s) : feed b s = .next (stored b s) := by
  have hcap : 4 ≤ s.cfg.bufCap := s.cfg.bufCap_min
  obtain ⟨hs, hi⟩ | ⟨hs, hi, hc⟩ := h
  · exact feed_header_byte b hs (by omega) (by omega)
  · exact feed_payload_byte b hs (by omega) (by omega)

theorem RoomFor.stored {k : Nat} {s : State} (b : Byte) (h : RoomFor (k + 1) s) : RoomFor k (stored b s) := by
  have hidx : (Spec.stored b s).idx + k = s.idx + (k + 1) := Nat.succ_add_eq_add_succ s.idx k
  obtain ⟨hs, hi⟩ | ⟨hs, hi, hc⟩ := h
  · exact .inl ⟨hs, Nat.le_trans (Nat.le_of_eq hidx) hi⟩
  · exact .inr ⟨hs, Nat.lt_of_le_of_lt (Nat.le_of_eq hidx) hi, hc⟩

/-- Bytes there is room for are stored one after the other. -/
theorem silentRun_stored {s : State} (cs : List Byte) : ∀ {bs : List Byte} {t : State}, Received s bs t →
    RoomFor cs.length t → ∃ u, SilentRun cs t u ∧ Received s (bs ++ cs) u ∧ u.st = t.st ∧ u.len = t.len ∧
      u.name = t.name := by
  induction cs with
  | nil => exact fun {bs t} h _ => ⟨t, .nil t, (List.append_nil bs).symm ▸ h, rfl, rfl, rfl⟩
  | cons b cs ih =>
    intro bs t h hroom
    obtain ⟨u, hrun, hrec, hst, hlen, hname⟩ := ih (h.stored_byte b) (hroom.stored b)
    rw [List.append_assoc] at hrec
    exact ⟨u, .cons (hroom.feed_eq b) rfl hrun, hrec, hst, hlen, hname⟩

/-- The two sync bytes start a header (R71, R72). -/
theorem silentRun_sync {s : State} (hs : s.st = .waitSync1) :
    ∃ t, SilentRun [sync1, sync2] s t ∧ t.st = .header ∧ Received s [] t :=
  ⟨_, .cons (feed_waitSync1_sync hs) rfl (.single (feed_waitSync2_sync rfl) rfl), rfl, rfl, rfl, rfl,
    fun k hk => absurd hk (Nat.not_lt_zero k), rfl⟩

/-- The framer waits for the checksum bytes of the frame bytes `bs`, the entry `n` pending. -/
structure AwaitsChecksum (s : State) (n : Nat) (bs : List Byte) (t : State) : Prop where
  received : Received s bs t
  st_eq    : t.st = .checksumA
  name_eq  : t.name = some n
  ck_eq    : (t.ckA, t.ckB) = checksum bs

/-- The fourth byte of an admitted header: on to the payload, or to the checksum when there is none (R73, R74). -/
theorem silentRun_header_last {s t : State} {c i lo hi : Byte} {n : Nat} (hst : t.st = .header)
    (h : Received s [c, i, lo] t) (hk : lookup s.cfg.registry c i (wireLength lo hi) = some (n, wireLength lo hi))
    (hc : 4 + (wireLength lo hi).toNat ≤ s.cfg.bufCap) :
    ∃ u, SilentRun [hi] t u ∧ Received s [c, i, lo, hi] u ∧ u.name = some n ∧
      (wireLength lo hi = 0 → AwaitsChecksum s n [c, i, lo, hi] u) ∧
      (wireLength lo hi ≠ 0 → u.st = .payload ∧ u.len = wireLength lo hi) := by
  have hf : feed hi t = .next (afterHeader c i lo hi t) := feed_header_last hi hst h.count.symm h.stored
  have hrec : Received s [c, i, lo, hi] (stored hi t) := h.stored_byte hi
  rw [← h.cfg_eq] at hk hc
  generalize hu : afterHeader c i lo hi t = u at hf
  cases hu ▸ afterHeader_answer c i lo hi t with
  | unknown hn => exact absurd (hn.symm.trans hk) nofun
  | overflow m hm hlt => omega
  | noPayload m hm h0 =>
    obtain ⟨rfl, -⟩ := Prod.mk.inj (Option.some.inj (hm.symm.trans hk))
    exact ⟨_, .single hf rfl, hrec.congr rfl rfl rfl rfl rfl, rfl,
      fun _ => ⟨hrec.congr rfl rfl rfl rfl rfl, rfl, rfl, rfl⟩, fun hne => absurd h0 hne⟩
  | payload m hm _ h0 =>
    obtain ⟨rfl, -⟩ := Prod.mk.inj (Option.some.inj (hm.symm.trans hk))
    exact ⟨_, .single hf rfl, hrec.congr rfl rfl rfl rfl rfl, rfl, fun hz => absurd hz h0, fun _ => ⟨rfl, rfl⟩⟩

/-- The whole payload, its last byte taking the checksum (R75). -/
theorem silentRun_payload {s t : State} {bs : List Byte} {n : Nat} {p : List Byte} (hp : p ≠ []) (hst : t.st = .payload)
    (hn : t.name = some n) (h : Received s bs t) (hl : bs.length + p.length = 4 + t.len.toNat)
    (hc : 4 + t.len.toNat ≤ s.cfg.bufCap) : ∃ u, SilentRun p t u ∧ AwaitsChecksum s n (bs ++ p) u := by
  obtain ⟨q, b, rfl⟩ : ∃ q b, p = q ++ [b] := ⟨_, _, (List.dropLast_concat_getLast hp).symm⟩
  rw [List.length_append, List.length_singleton, h.count] at hl
  rw [← h.cfg_eq] at hc
  obtain ⟨u, hrun, hrec, hst', hlen, hname⟩ := silentRun_stored q h (.inr ⟨hst, by omega, hc⟩)
  have hidx : u.idx + 1 = 4 + u.len.toNat := by
    rw [hlen, ← hrec.count, List.length_append, h.count, Nat.add_assoc, hl]
  have hroom : u.idx < u.cfg.bufCap := by
    rw [← hlen, ← hidx, h.cfg_eq, ← hrec.cfg_eq] at hc
    exact hc
  have hf := feed_payload_last b (hst'.trans hst) hidx hroom hrec.count hrec.stored
  refine ⟨_, hrun.append (.single hf rfl), ?_, rfl, hname.trans hn, ?_⟩
  · rw [← List.append_assoc]
    exact (hrec.stored_byte b).congr rfl rfl rfl rfl rfl
  · rw [← List.append_assoc]
    rfl

/-- The frame bytes the checksum covers (R45, R55). -/
def frameBody (c i : Byte) (p : List Byte) : List Byte := headerBytes c i (BitVec.ofNat 16 p.length) ++ p

theorem frame_eq (c i : Byte) (p : List Byte) : frame c i p =
    [sync1, sync2] ++ frameBody c i p ++ [(checksum (frameBody c i p)).1, (checksum (frameBody c i p)).2] := rfl

theorem frameBody_length (c i : Byte) (p : List Byte) : (frameBody c i p).length = 4 + p.length := by
  rw [frameBody, List.length_append]
  rfl

/-- The bytes of an accepted frame before its checksum bytes, whatever the payload bytes. -/
theorem silentRun_frameBody {s : State} {c i : Byte} {p : List Byte} {n : Nat} (hs : s.st = .waitSync1)
    (ha : Accepted s.cfg c i p n) :
    ∃ t, SilentRun ([sync1, sync2] ++ frameBody c i p) s t ∧ AwaitsChecksum s n (frameBody c i p) t := by
  have hw := wireLength_bytes (BitVec.ofNat 16 p.length)
  have hlen : (BitVec.ofNat 16 p.length).toNat = p.length := by
    rw [BitVec.toNat_ofNat]
    exact Nat.mod_eq_of_lt ha.short
  unfold frameBody headerBytes
  obtain ⟨hshort, hknown, hfits⟩ := ha
  generalize lowByte (BitVec.ofNat 16 p.length) = lo at hw
  generalize highByte (BitVec.ofNat 16 p.length) = hi at hw
  rw [← hw] at hknown hlen
  obtain ⟨t, hsync, hst, hrec⟩ := silentRun_sync hs
  obtain ⟨u, hheader, hrec, hst', -, -⟩ := silentRun_stored [c, i, lo] hrec
    (.inl ⟨hst, hrec.count ▸ Nat.le_refl 3⟩)
  obtain ⟨v, hlast, hrec, hname, hempty, hpayload⟩ := silentRun_header_last (hst'.trans hst) hrec hknown
    (hlen.symm ▸ hfits)
  have hrun : SilentRun ([sync1, sync2] ++ [c, i, lo, hi]) s v := hsync.append (hheader.append hlast)
  by_cases hp : p = []
  · subst hp
    exact ⟨v, hrun, hempty (BitVec.eq_of_toNat_eq hlen)⟩
  · have hne : wireLength lo hi ≠ 0 := fun h0 => hp (List.length_eq_zero_iff.mp (hlen.symm.trans (congrArg _ h0)))
    obtain ⟨hstv, hlenv⟩ := hpayload hne
    rw [← hlenv] at hlen
    obtain ⟨x, hrun', hx⟩ := silentRun_payload hp hstv hname hrec (by rw [hlen]; rfl) (hlen.symm ▸ hfits)
    rw [← List.append_assoc]
    exact ⟨x, hrun.append hrun', hx⟩

/-- The right checksum bytes emit the name at the second of them (R76, R77). -/
theorem AwaitsChecksum.emit {s t : State} {n : Nat} {bs : List Byte} (h : AwaitsChecksum s n bs t) :
    ∃ u, SilentRun [(checksum bs).1] t u ∧ ∃ v, feed (checksum bs).2 u = .next v ∧ v.res = some n ∧
      v.st = .waitSync1 ∧ v.err = s.err ∧ v.cfg = s.cfg ∧ v.events = .emit n :: s.events ∧ BufHolds v bs := by
  obtain ⟨hrec, hst, hname, hck⟩ := h
  rw [← hck]
  refine ⟨_, .single (feed_checksumA_good hst) rfl, _,
    feed_checksumB_good (s := { t with res := none, st := .checksumB }) rfl, hname, rfl, hrec.err_eq, hrec.cfg_eq, ?_,
    hrec.stored⟩
  rw [← hrec.events_eq]
  exact State.emitName_events_some (State.clearResult { t with res := none, st := .checksumB }) n hname

/-- Checksum bytes of which one is wrong are counted once and give no result: after a mismatch at the first the second
is fed in WaitSync1 (R76, R77, R89). -/
theorem AwaitsChecksum.counted {s t : State} {n : Nat} {bs : List Byte} {x y : Byte} (h : AwaitsChecksum s n bs t)
    (hxy : (x, y) ≠ checksum bs) : ∃ u, SilentRun [x, y] t u ∧ u.err = (s.err + 1) % 2 ^ s.cfg.errW := by
  obtain ⟨hrec, hst, -, hck⟩ := h
  rw [← hck] at hxy
  have counted (u : State) (he : u.err = (t.err + 1) % 2 ^ t.cfg.errW) : u.err = (s.err + 1) % 2 ^ s.cfg.errW := by
    rw [he, hrec.err_eq, hrec.cfg_eq]
  by_cases hx : x = t.ckA
  · subst hx
    have hy : y ≠ t.ckB := fun hy => hxy (hy ▸ rfl)
    have hbad := feed_checksumB_bad (s := { t with res := none, st := .checksumB }) rfl hy
    exact ⟨_, .cons (feed_checksumA_good hst) rfl (.single hbad rfl), counted _ rfl⟩
  · have hbad := feed_checksumA_bad hst hx
    by_cases hy : y = sync1
    · exact ⟨_, .cons hbad rfl (.single (hy ▸ feed_waitSync1_sync rfl) rfl), counted _ rfl⟩
    · exact ⟨_, .cons hbad rfl (.single (feed_waitSync1_noise rfl hy) rfl), counted _ rfl⟩

end Sys2Proof.Machine
end

section
/-! A frame with one byte of its payload or checksum changed (R79), and the doubled sync byte (R108). -/

namespace Sys2Proof.Machine

open Sys2Proof.Spec

/-- Whether a frame is accepted depends on the length of its payload and not on the bytes (R48). -/
theorem Accepted.of_length_eq {cfg : Config} {c i : Byte} {p q : List Byte} {n : Nat} (h : Accepted cfg c i p n)
    (hl : q.length = p.length) : Accepted cfg c i q n where
  short := hl ▸ h.short
  known := hl ▸ h.known
  fits := hl ▸ h.fits

/-- A changed payload byte changes ckA (R56 item 4). -/
theorem checksum_frameBody_set_ne {c i x : Byte} {p : List Byte} {k : Nat} (hk : k < p.length) (hx : p[k]? ≠ some x) :
    (checksum (frameBody c i (p.set k x))).1 ≠ (checksum (frameBody c i p)).1 := by
  rw [frameBody, frameBody, List.length_set, checksum_append_fst, checksum_append_fst]
  exact fun h => checksumDetectsOneByteChange p k x hk hx ((BitVec.add_right_inj _).mp h)

/-- One changed byte makes the frame one of a payload of the same length with a wrong checksum byte. -/
theorem frame_set_eq {c i x : Byte} {p : List Byte} {k : Nat} (hk : k < p.length + 2)
    (hx : (frame c i p)[6 + k]? ≠ some x) : ∃ q y z, q.length = p.length ∧
      (frame c i p).set (6 + k) x = [sync1, sync2] ++ frameBody c i q ++ [y, z] ∧
      (y, z) ≠ checksum (frameBody c i q) := by
  have split (q ck : List Byte) : [sync1, sync2] ++ frameBody c i q ++ ck =
      ([sync1, sync2] ++ headerBytes c i (BitVec.ofNat 16 q.length)) ++ (q ++ ck) := by
    simp only [frameBody, List.append_assoc]
  have h6 : ([sync1, sync2] ++ headerBytes c i (BitVec.ofNat 16 p.length)).length = 6 := rfl
  obtain ⟨A, B, hck⟩ : ∃ A B, checksum (frameBody c i p) = (A, B) := ⟨_, _, rfl⟩
  rw [frame_eq, hck, split, List.getElem?_append_right (h6 ▸ Nat.le_add_right 6 k), h6, Nat.add_sub_cancel_left] at hx
  rw [frame_eq, hck, split, List.set_append_right _ _ (h6 ▸ Nat.le_add_right 6 k), h6, Nat.add_sub_cancel_left]
  by_cases hpay : k < p.length
  · rw [List.getElem?_append_left hpay] at hx
    refine ⟨p.set k x, A, B, List.length_set, ?_, fun h => checksum_frameBody_set_ne (c := c) (i := i) hpay hx ?_⟩
    · rw [split, List.length_set, List.set_append_left _ _ hpay]
    · rw [← h, hck]
  · have hge : p.length ≤ k := Nat.le_of_not_lt hpay
    rw [List.getElem?_append_right hge] at hx
    rw [List.set_append_right _ _ hge]
    obtain hj | hj : k - p.length = 0 ∨ k - p.length = 1 := by omega
    · rw [hj] at hx ⊢
      refine ⟨p, x, B, rfl, (split ..).symm, fun h => hx ?_⟩
      exact congrArg (some ·.1) (hck.symm.trans h.symm)
    · rw [hj] at hx ⊢
      refine ⟨p, A, x, rfl, (split ..).symm, fun h => hx ?_⟩
      exact congrArg (some ·.2) (hck.symm.trans h.symm)

/-- A frame with a changed byte gives no result, and is counted at a checksum byte. -/
theorem silentRun_corrupted {s : State} {c i x : Byte} {p : List Byte} {n k : Nat} (hs : s.st = .waitSync1)
    (ha : Accepted s.cfg c i p n) (hk : k < p.length + 2) (hx : (frame c i p)[6 + k]? ≠ some x) :
    ∃ t, SilentRun ((frame c i p).set (6 + k) x) s t ∧ t.err = (s.err + 1) % 2 ^ s.cfg.errW := by
  obtain ⟨q, y, z, hl, hset, hne⟩ := frame_set_eq hk hx
  obtain ⟨t, hbody, hawaits⟩ := silentRun_frameBody hs (ha.of_length_eq hl)
  obtain ⟨u, hck, herr⟩ := hawaits.counted hne
  exact ⟨u, hset ▸ hbody.append hck, herr⟩

/-- An accepted frame gives no result before its last byte and its name at that byte. -/
theorem silentRun_accepted {s : State} {c i : Byte} {p : List Byte} {n : Nat} (hs : s.st = .waitSync1)
    (ha : Accepted s.cfg c i p n) : ∃ u,
      SilentRun ([sync1, sync2] ++ frameBody c i p ++ [(checksum (frameBody c i p)).1]) s u ∧
      ∃ v, feed (checksum (frameBody c i p)).2 u = .next v ∧ v.res = some n ∧ v.st = .waitSync1 ∧ v.err = s.err ∧
        v.cfg = s.cfg ∧ v.events = .emit n :: s.events ∧ BufHolds v (frameBody c i p) := by
  obtain ⟨t, hbody, hawaits⟩ := silentRun_frameBody hs ha
  obtain ⟨u, hck, hlast⟩ := hawaits.emit
  exact ⟨u, hbody.append hck, hlast⟩

theorem frame_length (c i : Byte) (p : List Byte) : (frame c i p).length = 8 + p.length := by
  simp only [frame_eq, List.length_append, frameBody_length, List.length_cons, List.length_nil]
  omega

theorem execAll_feed_last {bs : List Byte} {b : Byte} {s u v : State} (h : SilentRun bs s u) (hf : feed b u = .next v) :
    execAll (feeds (bs ++ [b])) s = .next v := by
  rw [feeds_append, execAll_append, h.execAll_eq, andThen_next]
  exact execAll_feeds_cons [] hf

theorem execAll_feeds_pair {x y : Byte} {s t u : State} (hx : feed x s = .next t) (hy : feed y t = .next u) :
    execAll (feeds [x, y]) s = .next u :=
  (execAll_feeds_cons [y] hx).trans (execAll_feeds_cons [] hy)

/-- The state after `B5 B5` is fed in WaitSync1. -/
def afterDoubledSync (s : State) : State :=
  { s with res := none, idx := 0, name := none, st := .waitSync1, events := .drop (.syncLoss 0xB5) :: s.events }

/-- In WaitSync1 `B5 B5` is a sync loss, since the second `B5` is not tested again (R72, R108). -/
theorem feeds_doubled_sync {s : State} (hs : s.st = .waitSync1) :
    execAll (feeds [0xB5, 0xB5]) s = .next (afterDoubledSync s) :=
  execAll_feeds_pair (feed_waitSync1_sync hs) (feed_waitSync2_loss rfl (by decide))

/-- The `62` after the sync loss is noise in the same state. -/
theorem feeds_doubled_sync_start {s : State} (hs : s.st = .waitSync1) :
    execAll (feeds [0xB5, 0xB5, 0x62]) s = .next (afterDoubledSync s) := by
  rw [show feeds [0xB5, 0xB5, 0x62] = feeds [0xB5, 0xB5] ++ feeds [0x62] from rfl, execAll_append,
    feeds_doubled_sync hs, andThen_next]
  exact execAll_feeds_cons [] (feed_waitSync1_noise rfl (by decide))

end Sys2Proof.Machine
end

section
/-! The statements about sequences of FEEDs (42_framer.md section 6, 20_memory.md, 70_reset_and_hazards.md). -/

namespace Sys2Proof

open Sys2Proof.Machine Sys2Proof.Spec

/-- Settles O42: every byte but the last is fed without a result, the last one emits. -/
theorem acceptedFrameIsEmitted : Obligations.AcceptedFrameIsEmitted := by
  intro c i p n s hs ha
  obtain ⟨u, hrun, v, hlast, hv⟩ := silentRun_accepted hs ha
  have hframe : frame c i p = [sync1, sync2] ++ frameBody c i p ++ [(checksum (frameBody c i p)).1] ++
      [(checksum (frameBody c i p)).2] := by
    rw [frame_eq, List.append_assoc _ [_] [_]]
    rfl
  have hlen := frame_length c i p
  refine ⟨hlen, ⟨v, ?whole, hv⟩, fun k hk hlt => ?part⟩
  case whole =>
    rw [frameOps, hframe]
    exact execAll_feed_last hrun hlast
  case part =>
    rw [hframe, List.length_append, List.length_singleton] at hlen
    have hle : k ≤ ([sync1, sync2] ++ frameBody c i p ++ [(checksum (frameBody c i p)).1]).length := by omega
    rw [hframe, List.take_append_of_le_length hle]
    exact hrun.take k hk hle

/-- Settles O43: the changed byte leaves an accepted header with a wrong checksum byte. -/
theorem corruptedFrameIsCounted : Obligations.CorruptedFrameIsCounted := by
  intro c i p n k x s hs ha h6 hk hx
  obtain ⟨k, rfl⟩ := Nat.exists_eq_add_of_le h6
  obtain ⟨t, hrun, herr⟩ := silentRun_corrupted hs ha (by omega) hx
  refine ⟨⟨t, hrun.execAll_eq, herr⟩, fun j hj hle => hrun.take j hj ?_⟩
  rw [List.length_set, frame_length]
  exact hle

/-- Settles O47: the first FEED ends in WaitSync1 or WaitSync2, and neither state stores a byte. -/
theorem twoFeedsKeepBuffer : Obligations.TwoFeedsKeepBuffer := by
  intro x y s hs
  have notStoring {z : FramerState} (hz : z = .waitSync1 ∨ z = .waitSync2) : z ≠ .header ∧ z ≠ .payload := by
    rcases hz with rfl | rfl <;> exact ⟨nofun, nofun⟩
  obtain ⟨hh, hp⟩ := notStoring (.inl hs)
  obtain ⟨t, hx⟩ := feed_answer_of_not_storing x hh hp
  obtain ⟨hh', hp'⟩ : t.st ≠ .header ∧ t.st ≠ .payload := by
    by_cases hb : x = sync1
    · obtain rfl := Host.Outcome.next.inj (hx.feed_eq.symm.trans (hb ▸ feed_waitSync1_sync hs))
      exact notStoring (.inr rfl)
    · obtain rfl := Host.Outcome.next.inj (hx.feed_eq.symm.trans (feed_waitSync1_noise hs hb))
      exact notStoring (.inl hs)
  obtain ⟨u, hy⟩ := feed_answer_of_not_storing y hh' hp'
  have hbuf := hx.buf_of_not_storing hh hp
  refine ⟨t, u, execAll_feeds_cons [] hx.feed_eq, execAll_feeds_pair hx.feed_eq hy.feed_eq, fun a => ?_⟩
  rw [hy.buf_of_not_storing hh' hp', hbuf]
  exact ⟨rfl, rfl⟩

/-- Settles O48: the second `B5` is a sync loss and the `62` after it is noise. -/
theorem doubledSyncByteMissesFrame : Obligations.DoubledSyncByteMissesFrame := fun _ hs =>
  ⟨_, _, _, execAll_feeds_cons [] (feed_waitSync1_sync hs), rfl, feeds_doubled_sync hs, rfl, rfl,
    feeds_doubled_sync_start hs, rfl, rfl⟩

/-- Settles O49: after the mismatch the framer is in WaitSync1, where the ckB byte and the next frame's start are
`B5 B5 62`. -/
theorem syncByteAsCkBLosesNextFrame : Obligations.SyncByteAsCkBLosesNextFrame := by
  intro a s hs ha
  have hbad := feed_checksumA_bad hs ha
  exact ⟨⟨_, execAll_feeds_pair hbad (feed_waitSync1_sync rfl), rfl, rfl⟩,
    _, (execAll_feeds_cons _ hbad).trans (feeds_doubled_sync_start rfl), rfl, rfl, rfl⟩

end Sys2Proof
end

section
/-! FEED neither reads nor writes what stands around the framer, stops included (R49, R94). -/

namespace Sys2Proof.Machine

open Sys2Proof.Spec

theorem storeByte_withSide (b : Byte) (s : State) (x y : Byte) (r : Option Reading) (q : List PortWord) :
    storeByte b (s.withSide x y r q) = andThen (storeByte b s) fun t => .next (t.withSide x y r q) := by
  by_cases hc : s.idx < s.cfg.bufCap
  · rw [storeByte_of_lt hc]
    exact storeByte_of_lt (s := s.withSide x y r q) hc
  · rw [storeByte_of_ge (Nat.le_of_not_lt hc)]
    exact storeByte_of_ge (s := s.withSide x y r q) (Nat.le_of_not_lt hc)

theorem enterChecksum_withSide (s : State) (x y : Byte) (r : Option Reading) (q : List PortWord) :
    enterChecksum (s.withSide x y r q) = andThen (enterChecksum s) fun t => .next (t.withSide x y r q) := by
  have hread : bufReadRange 0 (4 + s.len.toNat) (s.withSide x y r q) = bufReadRange 0 (4 + s.len.toNat) s :=
    bufReadRange_congr rfl rfl
  rw [enterChecksum, enterChecksum, andThen_assoc]
  exact congrArg (andThen · _) hread

theorem admitHeader_withSide (n : Nat) (w : Half) (s : State) (x y : Byte) (r : Option Reading) (q : List PortWord) :
    admitHeader n w (s.withSide x y r q) = andThen (admitHeader n w s) fun t => .next (t.withSide x y r q) := by
  by_cases hc : s.cfg.bufCap < w.toNat + 4
  · rw [admitHeader, admitHeader, if_pos hc]
    exact if_pos hc
  rw [admitHeader, admitHeader, if_neg hc]
  refine (if_neg hc).trans ?_
  split
  · exact enterChecksum_withSide { s with name := some n, len := w } x y r q
  · rfl

theorem completeHeader_withSide (s : State) (x y : Byte) (r : Option Reading) (q : List PortWord) :
    completeHeader (s.withSide x y r q) = andThen (completeHeader s) fun t => .next (t.withSide x y r q) := by
  rw [completeHeader, completeHeader, andThen_assoc]
  refine congrArg (andThen (readHeader s)) (funext fun h => ?_)
  rw [State.withSide_cfg]
  cases lookup s.cfg.registry h.1 h.2.1 h.2.2 with
  | none => rfl
  | some p => exact admitHeader_withSide p.1 p.2 s x y r q

/-- A FEED that stores its byte and goes on the same with anything around the framer does so as a whole. -/
theorem andThen_storeByte_withSide {b : Byte} {s : State} {x y : Byte} {r : Option Reading} {q : List PortWord}
    {k : State → Host.Outcome State Fault Refusal}
    (hk : ∀ t : State, k (t.withSide x y r q) = andThen (k t) fun t => .next (t.withSide x y r q)) :
    andThen (storeByte b (s.withSide x y r q)) k =
      andThen (andThen (storeByte b s) k) fun t => .next (t.withSide x y r q) := by
  rw [storeByte_withSide, andThen_assoc, andThen_assoc]
  exact congrArg (andThen (storeByte b s)) (funext hk)

theorem feed_withSide (b : Byte) (s : State) (x y : Byte) (r : Option Reading) (q : List PortWord) :
    feed b (s.withSide x y r q) = andThen (feed b s) fun t => .next (t.withSide x y r q) := by
  cases hs : s.st with
  | header =>
    rw [feed_header b hs, feed_header (s := s.withSide x y r q) b hs]
    refine andThen_storeByte_withSide (s := s.clearResult) fun t => ?_
    by_cases hi : t.idx = 4
    · rw [if_pos hi]
      exact (if_pos hi).trans (completeHeader_withSide t x y r q)
    · rw [if_neg hi]
      exact if_neg hi
  | payload =>
    rw [feed_payload b hs, feed_payload (s := s.withSide x y r q) b hs]
    refine andThen_storeByte_withSide (s := s.clearResult) fun t => ?_
    by_cases hi : t.idx = 4 + t.len.toNat
    · rw [if_pos hi]
      exact (if_pos hi).trans (enterChecksum_withSide t x y r q)
    · rw [if_neg hi]
      exact if_neg hi
  | waitSync1 => rw [feed_waitSync1 b hs, feed_waitSync1 (s := s.withSide x y r q) b hs]; rfl
  | waitSync2 =>
    rw [feed_waitSync2 b hs, feed_waitSync2 (s := s.withSide x y r q) b hs, feedWaitSync2, feedWaitSync2]
    split <;> rfl
  | checksumA =>
    rw [feed_checksumA b hs, feed_checksumA (s := s.withSide x y r q) b hs, feedChecksumA, feedChecksumA]
    by_cases hb : b = s.ckA
    · rw [if_pos (show b = s.clearResult.ckA from hb)]
      exact if_pos hb
    · rw [if_neg (show b ≠ s.clearResult.ckA from hb)]
      exact if_neg hb
  | checksumB =>
    rw [feed_checksumB b hs, feed_checksumB (s := s.withSide x y r q) b hs, feedChecksumB, feedChecksumB]
    by_cases hb : b = s.ckB
    · rw [if_pos (show b = s.clearResult.ckB from hb)]
      exact if_pos hb
    · rw [if_neg (show b ≠ s.clearResult.ckB from hb)]
      exact if_neg hb

/-- A continuation of a FEED may use that the FEED kept what stands around the framer. -/
theorem andThen_feed_congr {b : Byte} {s : State} {k k' : State → Host.Outcome State Fault Refusal}
    (h : ∀ t : State, t.ceA = s.ceA → t.ceB = s.ceB → t.reading = s.reading → t.input = s.input → k t = k' t) :
    andThen (feed b s) k = andThen (feed b s) k' := by
  cases hf : feed b s with
  | next t =>
    obtain ⟨hceA, hceB, -, hreading, hinput⟩ := (feed_eq_next.mp hf).keeps_side
    exact h t hceA hceB hreading hinput
  | fault f => rfl
  | refused r => rfl

/-- No operation reads or writes the queue (log entry 1). -/
theorem exec_with_input (i : Instr) (s : State) (q : List PortWord) :
    exec i { s with input := q } = andThen (exec i s) fun t => .next { t with input := q } := by
  cases instrKind i with
  | reset hi => subst hi; rfl
  | feed b hi =>
    rw [exec_of_base_feed hi, exec_of_base_feed hi]
    refine (feed_withSide b s s.ceA s.ceB s.reading q).trans (andThen_feed_congr fun t hceA hceB hreading _ => ?_)
    rw [← hceA, ← hceB, ← hreading]
    rfl
  | read hi =>
    obtain ⟨value, hexec, hvalue⟩ := exec_read hi
    rw [hexec, hexec, hvalue { s with input := q } s rfl, andThen_assoc]
    rfl
  | ckClear hi => subst hi; rfl
  | ckAccum b hi => subst hi; rfl
  | idle hi => rw [exec_of_idle hi, exec_of_idle hi]; rfl

theorem exec_keeps_input {i : Instr} {s t : State} (h : exec i s = .next t) : t.input = s.input := by
  obtain ⟨-, hinput, -⟩ := writersOfEachRegister i s t h
  exact hinput

section
variable {M : Host.Core} {k : Nat} {s : M.State}

theorem core_run_of_next {t : M.State} (h : M.step s = .next t) : M.run (k + 1) s = M.run k t := by
  rw [Host.Core.run, h]

theorem core_run_of_fault {f : M.Fault} (h : M.step s = .fault f) : M.run (k + 1) s = .fault f := by
  rw [Host.Core.run, h]

theorem core_run_of_refused {r : M.Refusal} (h : M.step s = .refused r) : M.run (k + 1) s = .refused r := by
  rw [Host.Core.run, h]

end

/-- `k` steps of the machine the host runs, on the model's own types. -/
def runSteps (k : Nat) (s : State) : Host.Outcome State Fault Refusal := Host.Core.run Sys2Proof.core k s

theorem runSteps_succ (k : Nat) (s : State) : runSteps (k + 1) s = andThen (step s) (runSteps k) := by
  cases h : step s with
  | next t => exact core_run_of_next h
  | fault f => exact core_run_of_fault h
  | refused r => exact core_run_of_refused h

theorem step_presenting_cons (i : Instr) (is : List Instr) (s : State) :
    step (s.presenting (i :: is)) = andThen (exec i s) fun t => .next (t.presenting is) := by
  refine (step_encode i s (is.map encode ++ s.input)).trans ((exec_with_input i s _).trans ?_)
  cases h : exec i s with
  | next t => rw [andThen_next, andThen_next, State.presenting, exec_keeps_input h]
  | fault f => rfl
  | refused r => rfl

/-! One clocked cycle (D2): a framer word without `rst` and a checksum word. -/

/-- A checksum word is a function on the engine's accumulators. -/
theorem exec_decodeChecksum (w : BitVec 10) : ∃ f : Byte × Byte → Byte × Byte, ∀ s : State,
    exec (decodeChecksum w) s = .next { s with ceA := (f (s.ceA, s.ceB)).1, ceB := (f (s.ceA, s.ceB)).2 } := by
  unfold decodeChecksum
  split
  · exact ⟨fun _ => (0, 0), exec_ckClear⟩
  · split
    · exact ⟨fun acc => checksumStep acc (w.extractLsb' 0 8), exec_ckAccum _⟩
    · exact ⟨id, exec_ckIdle⟩

theorem execAll_pair (i j : Instr) (s : State) : execAll [i, j] s = andThen (exec i s) (exec j) := by
  rw [execAll_cons]
  refine congrArg (andThen (exec i s)) (funext fun t => ?_)
  rw [execAll_cons]
  cases exec j t <;> rfl

theorem feed_decodeChecksum_commute (b : Byte) (w : BitVec 10) (s : State) :
    andThen (feed b s) (exec (decodeChecksum w)) = andThen (exec (decodeChecksum w) s) (feed b) := by
  obtain ⟨f, hf⟩ := exec_decodeChecksum w
  rw [hf, andThen_next]
  refine Eq.trans ?_ (feed_withSide b s (f (s.ceA, s.ceB)).1 (f (s.ceA, s.ceB)).2 s.reading s.input).symm
  refine andThen_feed_congr fun t hceA hceB hreading hinput => ?_
  rw [hf, ← hceA, ← hceB, ← hreading, ← hinput]
  rfl

end Sys2Proof.Machine
end

section
/-! The statements about the order of operations (20_memory.md section 5, 30_encoding.md sections 3 and 6). -/

namespace Sys2Proof

open Sys2Proof.Machine Sys2Proof.Spec

/-- Settles O52, by induction on the operations: a step takes the first word and runs its operation, which leaves the
words after it. -/
theorem presentedOperationsRunInOrder : Obligations.PresentedOperationsRunInOrder := by
  intro is
  induction is with
  | nil => exact fun _ _ h => h
  | cons i is ih =>
    intro s t h
    obtain ⟨u, hu, hrest⟩ := andThen_eq_next.mp h
    refine (runSteps_succ is.length (s.presenting (i :: is))).trans ?_
    rw [step_presenting_cons, hu, andThen_next, andThen_next]
    exact ih u t hrest

/-- Settles O59: without `rst` the framer word is IDLE or a FEED, and a FEED keeps to the framer. -/
theorem clockedWordsCommute : Obligations.ClockedWordsCommute := by
  intro fw cw s hrst
  rw [clockedCycle, execAll_pair, execAll_pair]
  cases hvalid : fw.getLsbD 8 with
  | true =>
    rw [decodeFramer_of_valid hrst hvalid]
    exact feed_decodeChecksum_commute _ cw s
  | false =>
    rw [decodeFramer_of_control_clear hrst hvalid]
    obtain ⟨f, hf⟩ := exec_decodeChecksum cw
    rw [hf]
    exact hf s

/-- Settles O60: CK_ACCUM after RESET adds to 0, and RESET after CK_ACCUM clears what was added. -/
theorem resetAndAccumDoNotCommute : Obligations.ResetAndAccumDoNotCommute := by
  intro b s
  have hcycle : clockedCycle 0x200 (controlWord false true b) s = .next { s.applyReset with ceA := b, ceB := b } := by
    obtain ⟨-, haccum, -⟩ := decodeChecksum_controlWord b
    have hreset : decodeFramer 0x200 = .reset := decodeFramer_of_rst rfl
    rw [clockedCycle, execAll_pair, hreset, haccum]
    show exec (.ckAccum b) s.applyReset = _
    have hstep : checksumStep (0, 0) b = (b, b) := checksum_singleton b
    simp only [exec_ckAccum, State.applyReset_ceA, State.applyReset_ceB, hstep]
  have hother : execAll [.ckAccum b, .reset] s = .next s.applyReset := rfl
  refine ⟨hcycle, hother, fun hb h => hb ?_⟩
  rw [hcycle, hother] at h
  exact congrArg State.ceA (Host.Outcome.next.inj h)

end Sys2Proof
end

section
/-! States that differ in unread registers only (R13 to R15, R25): one step keeps them alike. -/

namespace Sys2Proof.Machine

open Sys2Proof.Spec

/-- The state with other values in the registers that some framer state leaves unread. -/
def State.withUnread (s : State) (i : Nat) (l : Half) (n : Option Nat) (x y : Byte) : State :=
  { s with idx := i, len := l, name := n, ckA := x, ckB := y }

@[simp] theorem State.withUnread_idx (s : State) (i : Nat) (l : Half) (n : Option Nat) (x y : Byte) :
    (s.withUnread i l n x y).idx = i := rfl
@[simp] theorem State.withUnread_len (s : State) (i : Nat) (l : Half) (n : Option Nat) (x y : Byte) :
    (s.withUnread i l n x y).len = l := rfl
@[simp] theorem State.withUnread_cfg (s : State) (i : Nat) (l : Half) (n : Option Nat) (x y : Byte) :
    (s.withUnread i l n x y).cfg = s.cfg := rfl

/-- The values `i`, `l`, `n`, `x`, `y` differ from the state's only where the state leaves the register unread. -/
structure Unread (s : State) (i : Nat) (l : Half) (n : Option Nat) (x y : Byte) : Prop where
  idx_eq  : s.st ≠ .waitSync1 → s.idx = i
  name_eq : s.st ≠ .waitSync1 → s.name = n
  len_eq  : s.st = .payload ∨ s.st = .checksumA ∨ s.st = .checksumB → s.len = l
  ck_eq   : s.st = .checksumA ∨ s.st = .checksumB → s.ckA = x ∧ s.ckB = y

theorem Unread.indistinguishable {s : State} {i : Nat} {l : Half} {n : Option Nat} {x y : Byte}
    (h : Unread s i l n x y) : Indistinguishable s (s.withUnread i l n x y) :=
  ⟨rfl, h.idx_eq, h.name_eq, h.len_eq, h.ck_eq, rfl, rfl, rfl, ⟨rfl, rfl⟩, rfl, rfl, rfl, rfl⟩

theorem Indistinguishable.eq_withUnread {s t : State} (h : Indistinguishable s t) :
    t = s.withUnread t.idx t.len t.name t.ckA t.ckB ∧ Unread s t.idx t.len t.name t.ckA t.ckB := by
  refine ⟨?_, h.idx_eq, h.name_eq, h.len_eq, h.ck_eq⟩
  obtain ⟨hst, -, -, -, -, herr, hres, hbuf, ⟨hceA, hceB⟩, hcfg, hevents, hreading, hinput⟩ := h
  rw [State.withUnread, hst, herr, hres, hbuf, hceA, hceB, hcfg, hevents, hreading, hinput]

theorem Indistinguishable.refl (s : State) : Indistinguishable s s :=
  Unread.indistinguishable ⟨fun _ => rfl, fun _ => rfl, fun _ => rfl, fun _ => ⟨rfl, rfl⟩⟩

theorem indistinguishable_waitSync1 {s : State} (hs : s.st = .waitSync1) (i : Nat) (l : Half) (n : Option Nat)
    (x y : Byte) : Indistinguishable s (s.withUnread i l n x y) :=
  Unread.indistinguishable ⟨fun h => absurd hs h, fun h => absurd hs h, fun h => by simp [hs] at h,
    fun h => by simp [hs] at h⟩

theorem indistinguishable_header {s : State} (hs : s.st = .waitSync2 ∨ s.st = .header) (l : Half) (x y : Byte) :
    Indistinguishable s (s.withUnread s.idx l s.name x y) :=
  Unread.indistinguishable ⟨fun _ => rfl, fun _ => rfl, fun h => by rcases hs with hs | hs <;> simp [hs] at h,
    fun h => by rcases hs with hs | hs <;> simp [hs] at h⟩

theorem indistinguishable_payload {s : State} (hs : s.st = .payload) (x y : Byte) :
    Indistinguishable s (s.withUnread s.idx s.len s.name x y) :=
  Unread.indistinguishable ⟨fun _ => rfl, fun _ => rfl, fun _ => rfl, fun h => by simp [hs] at h⟩

/-! Outcomes that agree -/

theorem OutcomesAgree.refl {R : State → State → Prop} (hR : ∀ s, R s s) (o : Host.Outcome State Fault Refusal) :
    OutcomesAgree R o o := by
  cases o with
  | next s => exact hR s
  | fault f => exact rfl
  | refused r => exact rfl

theorem OutcomesAgree.andThen {R Q : State → State → Prop} {o o' : Host.Outcome State Fault Refusal}
    {k k' : State → Host.Outcome State Fault Refusal} (h : OutcomesAgree R o o')
    (hk : ∀ s t, R s t → OutcomesAgree Q (k s) (k' t)) : OutcomesAgree Q (andThen o k) (andThen o' k') := by
  match o, o', h with
  | .next s, .next t, h => exact hk s t h
  | .fault f, .fault g, h => exact h
  | .refused r, .refused q, h => exact h

theorem OutcomesAgree.andThen_same {α : Type} {R : State → State → Prop} (o : Host.Outcome α Fault Refusal)
    {k k' : α → Host.Outcome State Fault Refusal} (hk : ∀ a, o = .next a → OutcomesAgree R (k a) (k' a)) :
    OutcomesAgree R (Machine.andThen o k) (Machine.andThen o k') := by
  cases o with
  | next a => exact hk a rfl
  | fault f => exact rfl
  | refused r => exact rfl

/-! FEED, by framer state -/

theorem storeByte_withUnread (b : Byte) (s : State) (l : Half) (x y : Byte) :
    storeByte b (s.withUnread s.idx l s.name x y) =
      andThen (storeByte b s) fun t => .next (t.withUnread t.idx l t.name x y) := by
  by_cases hc : s.idx < s.cfg.bufCap
  · rw [storeByte_of_lt hc]
    exact storeByte_of_lt (s := s.withUnread s.idx l s.name x y) hc
  · rw [storeByte_of_ge (Nat.le_of_not_lt hc)]
    exact storeByte_of_ge (s := s.withUnread s.idx l s.name x y) (Nat.le_of_not_lt hc)

/-- The checksum is written whatever `ck_a` and `ck_b` held. -/
theorem enterChecksum_withUnread (s : State) (x y : Byte) :
    enterChecksum (s.withUnread s.idx s.len s.name x y) = enterChecksum s :=
  congrArg (andThen · _) (bufReadRange_congr (i := 0) (k := 4 + s.len.toNat) (s := s.withUnread s.idx s.len s.name x y)
    (t := s) rfl rfl)

theorem admitHeader_agree (n : Nat) (r : Half) (s : State) (l : Half) (x y : Byte) :
    OutcomesAgree Indistinguishable (admitHeader n r s) (admitHeader n r (s.withUnread s.idx l s.name x y)) := by
  by_cases hc : s.cfg.bufCap < r.toNat + 4
  · rw [admitHeader, admitHeader, State.withUnread_cfg, if_pos hc, if_pos hc]
    exact indistinguishable_waitSync1 rfl _ _ _ _ _
  rw [admitHeader, admitHeader, State.withUnread_cfg, if_neg hc, if_neg hc]
  split
  · refine (enterChecksum_withUnread { s with name := some n, len := r } x y).symm ▸ ?_
    exact OutcomesAgree.refl Indistinguishable.refl _
  · exact indistinguishable_payload (s := { s with name := some n, len := r, st := .payload }) rfl x y

theorem completeHeader_agree (s : State) (l : Half) (x y : Byte) :
    OutcomesAgree Indistinguishable (completeHeader s) (completeHeader (s.withUnread s.idx l s.name x y)) := by
  refine OutcomesAgree.andThen_same (readHeader s) fun h _ => ?_
  rw [State.withUnread_cfg]
  cases lookup s.cfg.registry h.1 h.2.1 h.2.2 with
  | none => exact indistinguishable_waitSync1 rfl _ _ _ _ _
  | some p => exact admitHeader_agree p.1 p.2 s l x y

theorem feed_agree_waitSync1 {s : State} (b : Byte) (hs : s.st = .waitSync1) (i : Nat) (l : Half) (n : Option Nat)
    (x y : Byte) : OutcomesAgree Indistinguishable (feed b s) (feed b (s.withUnread i l n x y)) := by
  by_cases hb : b = sync1
  · rw [hb, feed_waitSync1_sync hs, feed_waitSync1_sync (s := s.withUnread i l n x y) hs]
    exact indistinguishable_header (s := { s with res := none, idx := 0, name := none, st := .waitSync2 }) (.inl rfl)
      l x y
  · rw [feed_waitSync1_noise hs hb, feed_waitSync1_noise (s := s.withUnread i l n x y) hs hb]
    exact indistinguishable_waitSync1 (s := { s with res := none, idx := 0, name := none }) hs 0 l none x y

theorem feed_agree_waitSync2 {s : State} (b : Byte) (hs : s.st = .waitSync2) (l : Half) (x y : Byte) :
    OutcomesAgree Indistinguishable (feed b s) (feed b (s.withUnread s.idx l s.name x y)) := by
  by_cases hb : b = sync2
  · rw [hb, feed_waitSync2_sync hs, feed_waitSync2_sync (s := s.withUnread s.idx l s.name x y) hs]
    exact indistinguishable_header (s := { s with res := none, idx := 0, st := .header }) (.inr rfl) l x y
  · rw [feed_waitSync2_loss hs hb, feed_waitSync2_loss (s := s.withUnread s.idx l s.name x y) hs hb]
    exact indistinguishable_waitSync1 rfl _ _ _ _ _

theorem feed_agree_header {s : State} (b : Byte) (hs : s.st = .header) (l : Half) (x y : Byte) :
    OutcomesAgree Indistinguishable (feed b s) (feed b (s.withUnread s.idx l s.name x y)) := by
  rw [feed_header b hs, feed_header (s := s.withUnread s.idx l s.name x y) b hs, feedHeader, feedHeader]
  refine (storeByte_withUnread b s.clearResult l x y).symm ▸ ?_
  rw [andThen_assoc]
  refine OutcomesAgree.andThen_same _ fun t _ => ?_
  rw [andThen_next, State.withUnread_idx]
  split
  · exact completeHeader_agree t l x y
  · exact indistinguishable_header (s := { t with st := .header }) (.inr rfl) l x y

theorem feed_agree_payload {s : State} (b : Byte) (hs : s.st = .payload) (x y : Byte) :
    OutcomesAgree Indistinguishable (feed b s) (feed b (s.withUnread s.idx s.len s.name x y)) := by
  rw [feed_payload b hs, feed_payload (s := s.withUnread s.idx s.len s.name x y) b hs, feedPayload, feedPayload]
  refine (storeByte_withUnread b s.clearResult s.len x y).symm ▸ ?_
  rw [andThen_assoc]
  refine OutcomesAgree.andThen_same _ fun t ht => ?_
  have hlen : t.len = s.len := by
    obtain ⟨-, rfl⟩ := storeByte_eq_next.mp ht
    rfl
  rw [andThen_next, State.withUnread_idx, State.withUnread_len, ← hlen]
  split
  · rw [enterChecksum_withUnread]
    exact OutcomesAgree.refl Indistinguishable.refl _
  · exact indistinguishable_payload (s := { t with st := .payload }) rfl x y

theorem feed_agree {s t : State} (b : Byte) (h : Indistinguishable s t) :
    OutcomesAgree Indistinguishable (feed b s) (feed b t) := by
  obtain ⟨ht, hu⟩ := h.eq_withUnread
  generalize t.idx = i at ht hu
  generalize t.len = l at ht hu
  generalize t.name = n at ht hu
  generalize t.ckA = x at ht hu
  generalize t.ckB = y at ht hu
  subst ht
  obtain ⟨hidx, hname, hlen, hck⟩ := hu
  by_cases h1 : s.st = .waitSync1
  · exact feed_agree_waitSync1 b h1 i l n x y
  obtain rfl := hidx h1
  obtain rfl := hname h1
  cases hs : s.st with
  | waitSync1 => exact absurd hs h1
  | waitSync2 => exact feed_agree_waitSync2 b hs l x y
  | header => exact feed_agree_header b hs l x y
  | payload =>
    obtain rfl := hlen (.inl hs)
    exact feed_agree_payload b hs x y
  | checksumA =>
    obtain rfl := hlen (.inr (.inl hs))
    obtain ⟨rfl, rfl⟩ := hck (.inl hs)
    exact OutcomesAgree.refl Indistinguishable.refl _
  | checksumB =>
    obtain rfl := hlen (.inr (.inr hs))
    obtain ⟨rfl, rfl⟩ := hck (.inr hs)
    exact OutcomesAgree.refl Indistinguishable.refl _

/-! Every operation, a step and a run -/

/-- What stands around the framer may change alike in both states. -/
theorem Indistinguishable.withSide {s t : State} {x x' y y' : Byte} {r r' : Option Reading} {q q' : List PortWord}
    (h : Indistinguishable s t) (hx : x = x') (hy : y = y') (hr : r = r') (hq : q = q') :
    Indistinguishable (s.withSide x y r q) (t.withSide x' y' r' q') :=
  ⟨h.st_eq, h.idx_eq, h.name_eq, h.len_eq, h.ck_eq, h.err_eq, h.res_eq, h.buf_eq, ⟨hx, hy⟩, h.cfg_eq, h.events_eq, hr,
    hq⟩

theorem Indistinguishable.shown_eq {s t : State} (h : Indistinguishable s t) : s.shown = t.shown := by
  obtain ⟨hceA, hceB⟩ := h.ce_eq
  rw [State.shown, State.shown, h.res_eq, h.err_eq, h.buf_eq, hceA, hceB, h.cfg_eq]

theorem exec_agree {s t : State} (i : Instr) (h : Indistinguishable s t) :
    OutcomesAgree Indistinguishable (exec i s) (exec i t) := by
  obtain ⟨hceA, hceB⟩ := h.ce_eq
  cases instrKind i with
  | reset hi =>
    subst hi
    show Indistinguishable s.applyReset t.applyReset
    rw [State.applyReset, h.cfg_eq, h.events_eq, h.reading_eq, h.input_eq]
    exact Indistinguishable.refl _
  | feed b hi =>
    rw [exec_of_base_feed hi, exec_of_base_feed hi]
    exact feed_agree b h
  | read hi =>
    obtain ⟨value, hexec, hvalue⟩ := exec_read hi
    rw [hexec, hexec, hvalue s t h.shown_eq]
    exact OutcomesAgree.andThen_same _ fun r _ => h.withSide hceA hceB rfl h.input_eq
  | ckClear hi =>
    subst hi
    exact h.withSide rfl rfl h.reading_eq h.input_eq
  | ckAccum b hi =>
    subst hi
    exact h.withSide (by rw [hceA, hceB]) (by rw [hceA, hceB]) h.reading_eq h.input_eq
  | idle hi =>
    rw [exec_of_idle hi, exec_of_idle hi]
    exact h

theorem step_agree {s t : State} (h : Indistinguishable s t) : OutcomesAgree Indistinguishable (step s) (step t) := by
  obtain ⟨hceA, hceB⟩ := h.ce_eq
  cases hin : s.input with
  | nil =>
    rw [step_nil hin, step_nil (h.input_eq.symm.trans hin)]
    exact h
  | cons p ps =>
    rw [step_cons hin, step_cons (h.input_eq.symm.trans hin)]
    exact exec_agree (decode p) (h.withSide hceA hceB h.reading_eq rfl)

theorem runSteps_agree (k : Nat) : ∀ {s t : State}, Indistinguishable s t →
    OutcomesAgree Indistinguishable (runSteps k s) (runSteps k t) := by
  induction k with
  | zero => exact fun h => h
  | succ k ih =>
    intro s t h
    rw [runSteps_succ, runSteps_succ]
    exact (step_agree h).andThen fun _ _ => ih

end Sys2Proof.Machine
end

section
/-! The statements about registers that no rule reads (10_state.md section 5). -/

namespace Sys2Proof

open Sys2Proof.Machine Sys2Proof.Spec

/-- Settles O45: both states present the same word, and its operation reads no register in which they differ. -/
theorem stepKeepsIndistinguishable : Obligations.StepKeepsIndistinguishable := fun _ _ => step_agree

/-- Settles O46, by induction on the steps: in WaitSync1 the five registers are unread. -/
theorem staleRegistersUnobservable : Obligations.StaleRegistersUnobservable := fun _ idx len name ckA ckB k hs =>
  runSteps_agree k (indistinguishable_waitSync1 hs idx len name ckA ckB)

end Sys2Proof
end
